-- ==== Sys2Proof/Word.lean ====
section
/-! DEFINITION. The value types of the FWC: words, addresses, times, codes, and the records that cross its ports
(00_scope.md R7, R13; 30_encoding.md R70 to R75, R80, R85). Every value is an unsigned integer of a stated width. -/

namespace Sys2Proof

/-- A Word of `W` bits: "the unit of data transferred and the unit of the status register's bit flags" (R13). -/
abbrev Word (W : Nat) := BitVec W

/-- An Address of `A` bits: opaque, equality-comparable, no arithmetic (R21). -/
abbrev Address (A : Nat) := BitVec A

/-- A time value: a 32-bit microsecond count (R5 `TIME_BITS`, R33). -/
abbrev Time := BitVec 32

/-- The 4-bit code held by the register `STATE` (R20, R85). -/
abbrev StateCode := BitVec 4

/-- The 3-bit code held by the register `RESULT` and driven on `rsp_result` (R20, R72, R80). -/
abbrev ResultCode := BitVec 3

/-- The nine FSM states of R85, under the spec's own names. -/
inductive FsmState where
  | IDLE | TSTART | CMD | DATA | POLL | TCHK | RST | RB | DONE
deriving DecidableEq, Repr

/-- The seven results, "a closed enumeration" (R13, R80). -/
inductive OpResult where
  | Success | VppError | ProgramError | ProtectedBlockError | UnknownProgramError | ReadBackError | TimeoutError
deriving DecidableEq, Repr

/-- A host request `REQ`: the address to program and the word to program (R70). -/
structure Req (A W : Nat) where
  address : Address A
  value   : Word W
deriving DecidableEq, Repr

/-- The direction of a bus transaction (R74 `op`). -/
inductive BusOp where
  | read | write
deriving DecidableEq, Repr

/-- A bus transaction record: `data` is the word written, or the word the device returned (R74). -/
structure BusTx (A W : Nat) where
  op   : BusOp
  addr : Address A
  data : Word W
deriving DecidableEq, Repr

/-- One external transaction, one line of a trace (R12, R59, R90): `WRITE a, v`; `T -> t`; `W a, v` or `R a -> v`;
`RSP r`. -/
inductive Event (A W : Nat) where
  | request  (q : Req A W)
  | time     (t : Time)
  | bus      (tx : BusTx A W)
  | response (r : ResultCode)
deriving DecidableEq, Repr

end Sys2Proof
end

