-- ==== Sys2Proof/Config.lean ====
section
/-! DEFINITION. What is fixed when the block is built (the parameters of 00_scope.md R5), and the free values: what the
spec leaves unspecified and the machine goes on with (93_implementation_defined.md U1 to U5). -/

namespace Sys2Proof

/-- The implementation parameters of R5, as raw numbers: R6 says which sets of them are well-formed
(`Params.WellFormed`). "Supplied as configuration constants, not negotiated at runtime" (R35). -/
structure Params where
  W : Nat
  A : Nat
  cmdRegAddr : Nat
  statusRegAddr : Nat
  programCmd : Nat
  resetCmd : Nat
  posReady : Nat
  posEraseSuspend : Nat
  posEraseError : Nat
  posProgramError : Nat
  posVppError : Nat
  posProgramSuspend : Nat
  posBlockProtectionError : Nat
  posReserved : Nat
  timeoutUs : Nat
  unnamedBitsAreErrors : Bool
deriving DecidableEq, Repr

/-- The "value taken" column of R5 (D3 to D8, D12). -/
def Params.taken : Params where
  W := 16
  A := 32
  cmdRegAddr := 0x00000000
  statusRegAddr := 0x00000000
  programCmd := 0x0040
  resetCmd := 0x00FF
  posReady := 7
  posEraseSuspend := 6
  posEraseError := 5
  posProgramError := 4
  posVppError := 3
  posProgramSuspend := 2
  posBlockProtectionError := 1
  posReserved := 0
  timeoutUs := 5000
  unnamedBitsAreErrors := false

namespace Config

/-- What a free value stands for: an input port past the end of the scheduled inputs, a register after a reset step
(R230), or `rsp_result` while it is not valid (R31). -/
inductive FreeSource where
  | rst | reqValid | reqAddr | reqValue | rspReady | busRdata | timeNow
  | resetADDR | resetDATA | resetT0 | resetSR | resetRESULT
  | rspResult
deriving DecidableEq, Repr

/-- DESIGN CHOICE (log 5), safe. The free value of a source, `w` bits wide, at draw number `n`: a constant with no body,
so that nothing can be proved of any of its values. -/
opaque freeBits (source : FreeSource) (w n : Nat) : BitVec w

/-- A free value of one bit, as a Bool. -/
def freeBit (source : FreeSource) (n : Nat) : Bool := freeBits source 1 n == 1#1

end Config

end Sys2Proof
end

