-- ==== Sys2Proof/Syntax.lean ====
section
/-! DEFINITION. The operations of the FWC, one constructor per row of spec/opcode_table.json (30_encoding.md R76).

No constructor has a field: "which operation a step performs is selected by `STATE` alone, not by any bit of a
transaction" (R76), and "there are no immediates" (R89). What an operation moves comes from the ports and registers. -/

namespace Sys2Proof

inductive Instr where
  /-- ACCEPT, R100. -/
  | accept
  /-- TIME_START, R120. -/
  | timeStart
  /-- CMD_PROGRAM, R123. -/
  | cmdProgram
  /-- DATA_WRITE, R125. -/
  | dataWrite
  /-- STATUS_READ, R140. -/
  | statusRead
  /-- TIME_CHECK, R145. -/
  | timeCheck
  /-- CMD_RESET, R165. -/
  | cmdReset
  /-- READBACK, R170. -/
  | readback
  /-- RESPOND, R105. -/
  | respond
deriving DecidableEq, Repr

end Sys2Proof
end

