-- ==== Sys2Proof/WellFormed.lean ====
section
/-! DEFINITION. Well-formed parameter sets (00_scope.md R6).

An operation has no operand, so every `Instr` is well-formed; every pattern is a valid request (30_encoding.md R71) and
every word is a legal Status Word (10_state.md R24). What can be ill-formed is the parameter set. -/

namespace Sys2Proof

/-- The eight positions `POS_*`, in the order of R5's table. -/
def Params.positions (p : Params) : List Nat :=
  [p.posReady, p.posEraseSuspend, p.posEraseError, p.posProgramError, p.posVppError, p.posProgramSuspend,
    p.posBlockProtectionError, p.posReserved]

/-- R6: "A parameter set is well-formed only if ...", condition by condition. -/
abbrev Params.WellFormed (p : Params) : Prop :=
  8 ≤ p.W ∧ 1 ≤ p.A ∧
  p.positions.Nodup ∧ (∀ i ∈ p.positions, i < p.W) ∧
  p.cmdRegAddr < 2 ^ p.A ∧ p.statusRegAddr < 2 ^ p.A ∧
  p.programCmd < 2 ^ p.W ∧ p.resetCmd < 2 ^ p.W ∧
  p.timeoutUs < 2 ^ 32

end Sys2Proof
end

