-- ==== Sys2Proof/Decode.lean ====
section
/-! DEFINITION. The encodings of 30_encoding.md: state codes (R85), result codes (R80), the selection of an operation by
`STATE` (R76, R85), its encoder, and the packed records `REQ`, `TX`, `RSP` (R70, R72, R74). -/

namespace Sys2Proof

/-- R85: the code of each FSM state. -/
def FsmState.code : FsmState → StateCode
  | .IDLE   => 0
  | .TSTART => 1
  | .CMD    => 2
  | .DATA   => 3
  | .POLL   => 4
  | .TCHK   => 5
  | .RST    => 6
  | .RB     => 7
  | .DONE   => 8

/-- R80: the code of each result. -/
def OpResult.code : OpResult → ResultCode
  | .Success             => 0
  | .VppError            => 1
  | .ProgramError        => 2
  | .ProtectedBlockError => 3
  | .UnknownProgramError => 4
  | .ReadBackError       => 5
  | .TimeoutError        => 6

/-- R80, R87: result code 7 is reserved. -/
def reservedResult : ResultCode := 7

/-- R80 read the other way: the result a code names, none for the reserved code. -/
def decodeResult (c : ResultCode) : Option OpResult :=
  match c.toNat with
  | 0 => some .Success
  | 1 => some .VppError
  | 2 => some .ProgramError
  | 3 => some .ProtectedBlockError
  | 4 => some .UnknownProgramError
  | 5 => some .ReadBackError
  | 6 => some .TimeoutError
  | _ => none

/-- Why a code selects no operation. -/
inductive DecodeError where
  /-- Codes 9 to 15 of `STATE` are unused (R85, R86). -/
  | unusedStateCode (c : StateCode)
deriving DecidableEq, Repr

/-- R85, R76: the operation that a `STATE` code selects; codes 9 to 15 select none. -/
def decode (c : StateCode) : Except DecodeError Instr :=
  match c.toNat with
  | 0 => .ok .accept
  | 1 => .ok .timeStart
  | 2 => .ok .cmdProgram
  | 3 => .ok .dataWrite
  | 4 => .ok .statusRead
  | 5 => .ok .timeCheck
  | 6 => .ok .cmdReset
  | 7 => .ok .readback
  | 8 => .ok .respond
  | _ => .error (.unusedStateCode c)

/-- R76: the state in which each operation is performed (the "state" of its row in spec/opcode_table.json). -/
def Instr.performedIn : Instr → FsmState
  | .accept     => .IDLE
  | .timeStart  => .TSTART
  | .cmdProgram => .CMD
  | .dataWrite  => .DATA
  | .statusRead => .POLL
  | .timeCheck  => .TCHK
  | .cmdReset   => .RST
  | .readback   => .RB
  | .respond    => .DONE

/-- The encoder: the `STATE` code that selects an operation (the row's "match", mask 0xF). -/
def encode (i : Instr) : StateCode := i.performedIn.code

/-- The operation that a table row's bits `w` select. A row's "match" and "mask" 0xF "apply to the STATE code", so the
four low bits of `w` are the whole selector, whatever `nbits` the row is given (log 12). -/
def decodeTableWord (_nbits w : Nat) : Option Instr :=
  match decode (BitVec.ofNat 4 w) with
  | .ok i    => some i
  | .error _ => none

/-- R70: `REQ = {address, value}`, `A + W` bits. -/
def packReq {A W : Nat} (q : Req A W) : BitVec (A + W) := q.address ++ q.value

/-- R70: `address = REQ[A+W-1:W]`, `value = REQ[W-1:0]`; every pattern is a request (R71). -/
def unpackReq {A W : Nat} (b : BitVec (A + W)) : Req A W where
  address := b.extractLsb' W A
  value   := b.extractLsb' 0 W

/-- R74: `0` = read, `1` = write. -/
def BusOp.bit : BusOp → BitVec 1
  | .read  => 0
  | .write => 1

/-- R74: `TX[A+W] = op`, `TX[A+W-1:W] = addr`, `TX[W-1:0] = data`. -/
def packTx {A W : Nat} (x : BusTx A W) : BitVec (1 + A + W) := (x.op.bit ++ x.addr) ++ x.data

/-- R74 read the other way. -/
def unpackTx {A W : Nat} (b : BitVec (1 + A + W)) : BusTx A W where
  op   := if b.extractLsb' (A + W) 1 = 1#1 then .write else .read
  addr := b.extractLsb' W A
  data := b.extractLsb' 0 W

/-- R72: `RSP[2:0]` is the result code. -/
def packRsp (r : OpResult) : BitVec 3 := r.code

/-- R74, R90: the trace line `W a, v`. -/
def Event.busWrite {A W : Nat} (a : Address A) (v : Word W) : Event A W := .bus ⟨.write, a, v⟩

/-- R74, R90: the trace line `R a -> v`. -/
def Event.busRead {A W : Nat} (a : Address A) (v : Word W) : Event A W := .bus ⟨.read, a, v⟩

end Sys2Proof
end

