-- ==== Sys2Proof/Machine/State.lean ====
section
/-! DEFINITION. The state of the machine, the reasons it can stop for, and its value after reset
(10_state.md R20 to R38). State is plain data; every register holds a value. -/

namespace Sys2Proof.Machine

/-- The levels of the input ports in one step (10_state.md R31 to R34). `bus_rdata` is what the bus answers to the
transaction of this step, `some` word (a write ignores the word) or `none` when the transaction never completes;
`time_now` likewise (42_poll.md R150; log 7). -/
structure Inputs (p : Params) where
  rst       : Bool
  req_valid : Bool
  req_addr  : Address p.A
  req_value : Word p.W
  rsp_ready : Bool
  bus_rdata : Option (Word p.W)
  time_now  : Option Time
deriving DecidableEq, Repr

/-- The FWC at parameters `p`: its six registers (R20, "exactly these registers, and no others"), the input ports as
sampled in this step, and three fields of the model's own. -/
structure Fwc (p : Params) where
  /-- The FSM state, the FWC's program counter (R26). -/
  STATE  : StateCode
  /-- The request's address (R21). -/
  ADDR   : Address p.A
  /-- The request's value (R22). -/
  DATA   : Word p.W
  /-- The start timestamp (R23). -/
  T0     : Time
  /-- The last Status Word read (R24). -/
  SR     : Word p.W
  /-- The result code (R25). -/
  RESULT : ResultCode
  /-- The input ports in this step; every step samples all of them first. -/
  pins   : Inputs p
  /-- The model's own (log 4): the levels the outside world will drive in the coming steps, the next step's first. -/
  env    : List (Inputs p)
  /-- The model's own (log 5): how many input records have been sampled, the index of the free values. -/
  draws  : Nat
  /-- The model's own (log 6): the transactions performed so far, NEWEST FIRST (00_scope.md R12). -/
  trace  : List (Event p.A p.W)
deriving DecidableEq, Repr

/-- The machine: the parameters it was built with (00_scope.md R5; log 1) and the FWC at those parameters. -/
structure State where
  params : Params
  fwc    : Fwc params
deriving DecidableEq, Repr

/-- Why the machine stops. The FWC itself raises no fault (60_exceptions.md R200); these are the treatments "stuck" and
"fault" of 93_implementation_defined.md. All are safe: the model stops where the spec gives no further behaviour. -/
inductive Fault where
  /-- Raised by step: `STATE` holds 9 to 15, which "a model gives no step" (R86, U7). Safe. -/
  | unusedStateCode (c : StateCode)
  /-- Raised by CMD_PROGRAM, DATA_WRITE, STATUS_READ, CMD_RESET, READBACK: the bus transaction of this step never
  completes, which "hangs the FWC in the step that waits for it" (R150, U11: stuck). Safe. -/
  | busNeverCompletes
  /-- Raised by TIME_START, TIME_CHECK: the time read of this step never completes (R150, U11: stuck). Safe. -/
  | timeNeverCompletes
  /-- Raised by RESPOND: the host takes a response with the reserved code 7 (R87, U6: fault). Safe. -/
  | reservedResultCode
deriving DecidableEq, Repr

/-- Why the machine gives no meaning. -/
inductive Refusal where
  /-- Raised by exec for an operation that has no meaning yet (none is left). Safe. -/
  | notModelled (mnemonic : String)
  /-- Raised by step: the parameter set is ill-formed, so "no machine is defined" (R6, U17: refuse). Safe. -/
  | illFormedParams
deriving DecidableEq, Repr

/-- The outcome of a step over states of type `α`. -/
abbrev Out (α : Type) := Host.Outcome α Fault Refusal

/-- All input levels 0 and no transaction completing: what the ports hold before the first step samples them. -/
def Inputs.quiet (p : Params) : Inputs p where
  rst       := false
  req_valid := false
  req_addr  := 0
  req_value := 0
  rsp_ready := false
  bus_rdata := none
  time_now  := none

/-- The FWC right after reset (R38): `STATE` is IDLE. `ADDR`, `DATA`, `T0`, `SR`, `RESULT` are unspecified there and
hold 0 here: DESIGN CHOICE (log 2), unsafe. -/
def Fwc.reset (p : Params) : Fwc p where
  STATE  := FsmState.IDLE.code
  ADDR   := 0
  DATA   := 0
  T0     := 0
  SR     := 0
  RESULT := 0
  pins   := Inputs.quiet p
  env    := []
  draws  := 0
  trace  := []

/-- The machine right after reset, at the parameter values R5 takes. -/
def State.reset : State := ⟨Params.taken, Fwc.reset Params.taken⟩

end Sys2Proof.Machine
end

