-- ==== Sys2Proof/Machine/Flags.lean ====
section
/-! DEFINITION. The flags of a Status Word: masks (30_encoding.md R78), the Ready test (42_poll.md R141) and the error
decoder `Classify` (43_decode.md R160). No step writes a flag (10_state.md R28). -/

namespace Sys2Proof.Machine

/-- R7: `bit(p)`, the word with only bit `pos` set. -/
def bit (W pos : Nat) : Word W := 1#W <<< pos

def mReady (p : Params) : Word p.W := bit p.W p.posReady
def mVpp (p : Params) : Word p.W := bit p.W p.posVppError
def mProg (p : Params) : Word p.W := bit p.W p.posProgramError
def mBp (p : Params) : Word p.W := bit p.W p.posBlockProtectionError

/-- R78: EraseSuspend, EraseError, ProgramSuspend, Reserved. -/
def mOther (p : Params) : Word p.W :=
  bit p.W p.posEraseSuspend ||| bit p.W p.posEraseError ||| bit p.W p.posProgramSuspend ||| bit p.W p.posReserved

/-- R78: the eight named bits. -/
def mNamed (p : Params) : Word p.W := mReady p ||| mVpp p ||| mProg p ||| mBp p ||| mOther p

/-- R78: the `W - 8` unnamed bits. -/
def mUnnamed (p : Params) : Word p.W := ~~~ mNamed p

/-- `(sr & mask) != 0`. -/
def anySet {W : Nat} (sr mask : Word W) : Bool := sr &&& mask != 0#W

/-- R141: "a Status Word `sr` shows Ready exactly when `(sr & M_READY) != 0`". -/
def isReady (p : Params) (sr : Word p.W) : Bool := anySet sr (mReady p)

/-- R160: `Classify`, first match wins; `none` is NONE, tentative success. Applied only to a word that shows Ready
(R163). -/
def classify (p : Params) (sr : Word p.W) : Option OpResult :=
  if anySet sr (mVpp p) then some .VppError
  else if anySet sr (mProg p) then some .ProgramError
  else if anySet sr (mBp p) then some .ProtectedBlockError
  else if anySet sr (mOther p) then some .UnknownProgramError
  else if p.unnamedBitsAreErrors && anySet sr (mUnnamed p) then some .UnknownProgramError
  else none

end Sys2Proof.Machine
end

