-- ==== Sys2Proof/Machine/Operands.lean ====
section
/-! DEFINITION. The operands that come from the parameters (00_scope.md R5; 30_encoding.md R89) and the elapsed-time
arithmetic (42_poll.md R145, R146). The only addressing mode is an absolute address: `ADDR` as the host gave it
(20_memory.md R52), or one of the two fixed register addresses (R57). -/

namespace Sys2Proof.Machine

def cmdRegAddr (p : Params) : Address p.A := BitVec.ofNat p.A p.cmdRegAddr
def statusRegAddr (p : Params) : Address p.A := BitVec.ofNat p.A p.statusRegAddr
def programCmd (p : Params) : Word p.W := BitVec.ofNat p.W p.programCmd
def resetCmd (p : Params) : Word p.W := BitVec.ofNat p.W p.resetCmd

/-- R8, R146: `t -_32 T0`, the subtraction modulo 2^32. -/
def elapsed (t t0 : Time) : Time := t - t0

/-- R145: `elapsed >=_u TIMEOUT_US`, compared as unsigned integers (R8; 90_conflicts.md C1). -/
def timedOut (p : Params) (t0 t : Time) : Bool := decide (p.timeoutUs ≤ (elapsed t t0).toNat)

end Sys2Proof.Machine
end

