-- ==== Sys2Proof/Machine/Ops.lean ====
section
/-! DEFINITION. The named operations every meaning is written over: the output ports, the sampling of the input ports,
the external primitives of 00_scope.md R9 (`BusRead`, `BusWrite`, `TimeRead`, `STATE <- s`), the entry into an error or
a result (60_exceptions.md R203), the step of the reset input (70_reset_and_hazards.md R230). -/

namespace Sys2Proof.Machine

variable {p : Params}

/-! ### Output ports (10_state.md R31) -/

/-- `req_ready`: "`1` exactly when `STATE = IDLE`". -/
def Fwc.req_ready (m : Fwc p) : Bool := m.STATE == FsmState.IDLE.code

/-- `rsp_valid`: "`1` exactly when `STATE = DONE`". -/
def Fwc.rsp_valid (m : Fwc p) : Bool := m.STATE == FsmState.DONE.code

/-- `busy`: "`1` exactly when `STATE` is neither IDLE nor DONE". -/
def Fwc.busy (m : Fwc p) : Bool := m.STATE != FsmState.IDLE.code && m.STATE != FsmState.DONE.code

/-- `rsp_result`: "`RESULT` while `rsp_valid = 1`; unspecified otherwise", then a free value (U5; log 10). -/
def Fwc.rsp_result (m : Fwc p) : ResultCode :=
  if m.rsp_valid then m.RESULT else Config.freeBits .rspResult 3 m.draws

/-! ### Register writes -/

/-- R9: `STATE <- f`. -/
def Fwc.goto (m : Fwc p) (f : FsmState) : Fwc p := { m with STATE := f.code }

/-- The transaction `e` joins the trace (R12, R59). -/
def Fwc.emit (m : Fwc p) (e : Event p.A p.W) : Fwc p := { m with trace := e :: m.trace }

/-- R100: `ADDR <- req_addr`, `DATA <- req_value`. -/
def Fwc.latch (m : Fwc p) (q : Req p.A p.W) : Fwc p := { m with ADDR := q.address, DATA := q.value }

/-- R120: `T0 <- t`. -/
def Fwc.setT0 (m : Fwc p) (t : Time) : Fwc p := { m with T0 := t }

/-- R140: `SR <- sr`. -/
def Fwc.setSR (m : Fwc p) (sr : Word p.W) : Fwc p := { m with SR := sr }

/-- R203, the FWC's analogue of taking an exception: the step that selects a result writes its code to `RESULT` and goes
to a fixed state in the same step. "Nothing else is saved, no mode or mask changes, and control goes to the fixed
successor state, not to a vector." There is no return but RESPOND (R204). -/
def Fwc.select (m : Fwc p) (r : OpResult) (f : FsmState) : Fwc p := { m with RESULT := r.code, STATE := f.code }

/-! ### Inputs -/

/-- The input levels past the end of the scheduled ones: free values, by draw number (U1 to U3; log 4). Every
transaction completes there ("the transaction completes within the step that issues it", R32; log 7). -/
def freeInputs (p : Params) (n : Nat) : Inputs p where
  rst       := Config.freeBit .rst n
  req_valid := Config.freeBit .reqValid n
  req_addr  := Config.freeBits .reqAddr p.A n
  req_value := Config.freeBits .reqValue p.W n
  rsp_ready := Config.freeBit .rspReady n
  bus_rdata := some (Config.freeBits .busRdata p.W n)
  time_now  := some (Config.freeBits .timeNow 32 n)

/-- The input levels the next step will see: the first scheduled record, or the free one. -/
def Fwc.nextInputs (m : Fwc p) : Inputs p := m.env.headD (freeInputs p m.draws)

/-- The input ports are sampled, once per step. -/
def Fwc.sample (m : Fwc p) : Fwc p :=
  { m with pins := m.nextInputs, env := m.env.tail, draws := m.draws + 1 }

/-! ### External primitives (R9) -/

/-- `BusRead(a)`: one read transaction of one Word at `a`; the word is the device's (R55). -/
def Fwc.busRead (m : Fwc p) (a : Address p.A) (k : Word p.W → Fwc p → Out (Fwc p)) : Out (Fwc p) :=
  match m.pins.bus_rdata with
  | some v => k v (m.emit (.busRead a v))
  | none   => .fault .busNeverCompletes

/-- `BusWrite(a, v)`: one write transaction of Word `v` at `a`. -/
def Fwc.busWrite (m : Fwc p) (a : Address p.A) (v : Word p.W) (k : Fwc p → Out (Fwc p)) : Out (Fwc p) :=
  match m.pins.bus_rdata with
  | some _ => k (m.emit (.busWrite a v))
  | none   => .fault .busNeverCompletes

/-- `TimeRead()`: one time-port read; the value is the time source's (R210). -/
def Fwc.timeRead (m : Fwc p) (k : Time → Fwc p → Out (Fwc p)) : Out (Fwc p) :=
  match m.pins.time_now with
  | some t => k t (m.emit (.time t))
  | none   => .fault .timeNeverCompletes

/-! ### Reset input -/

/-- R230: no transaction, `STATE <- IDLE`; `ADDR`, `DATA`, `T0`, `SR` and `RESULT` become unspecified: free values by
draw number (U4; log 3). -/
def Fwc.resetStep (m : Fwc p) : Fwc p :=
  { m with
    STATE  := FsmState.IDLE.code
    ADDR   := Config.freeBits .resetADDR p.A m.draws
    DATA   := Config.freeBits .resetDATA p.W m.draws
    T0     := Config.freeBits .resetT0 32 m.draws
    SR     := Config.freeBits .resetSR p.W m.draws
    RESULT := Config.freeBits .resetRESULT 3 m.draws }

/-! ### From the FWC at its parameters to the machine -/

/-- An outcome of the FWC at parameters `p` as an outcome of the machine built with `p`. -/
def lift : Out (Fwc p) → Out State
  | .next m    => .next ⟨p, m⟩
  | .fault r   => .fault r
  | .refused r => .refused r

/-- The machine with its input ports sampled. -/
def State.sample (s : State) : State := ⟨s.params, s.fwc.sample⟩

end Sys2Proof.Machine
end

