-- ==== Sys2Proof/Machine/Poll.lean ====
section
/-! DEFINITION. STATUS_READ and TIME_CHECK (42_poll.md). -/

namespace Sys2Proof.Machine

variable {p : Params}

/-- R140, the branch on the Status Word just read: not Ready to TCHK (R142); Ready without error to RB; Ready with an
error selects it and goes to RST (R203). -/
def statusBranch (sr : Word p.W) (m : Fwc p) : Fwc p :=
  if isReady p sr then
    match classify p sr with
    | none   => m.goto .RB
    | some c => m.select c .RST
  else
    m.goto .TCHK

/-- STATUS_READ (R140): `sr <- BusRead(STATUS_REG_ADDR)`, `SR <- sr`, then the branch. -/
def execStatusRead (s : State) : Out State :=
  lift (s.fwc.busRead (statusRegAddr s.params) fun sr m => .next (statusBranch sr (m.setSR sr)))

/-- R145, the branch on the time just read: timed out selects TimeoutError and goes to DONE, with no Reset command and no
read-back (R147); else back to POLL. -/
def timeBranch (t : Time) (m : Fwc p) : Fwc p :=
  if timedOut p m.T0 t then m.select .TimeoutError .DONE else m.goto .POLL

/-- TIME_CHECK (R145): `t <- TimeRead()`, then the branch. -/
def execTimeCheck (s : State) : Out State :=
  lift (s.fwc.timeRead fun t m => .next (timeBranch t m))

end Sys2Proof.Machine
end

