-- ==== Sys2Proof/Machine/Recovery.lean ====
section
/-! DEFINITION. CMD_RESET and READBACK (43_decode.md). -/

namespace Sys2Proof.Machine

variable {p : Params}

/-- CMD_RESET (R165): `BusWrite(CMD_REG_ADDR, RESET_CMD)`, `STATE <- DONE`; `RESULT` unchanged. -/
def execCmdReset (s : State) : Out State :=
  lift (s.fwc.busWrite (cmdRegAddr s.params) (resetCmd s.params) fun m => .next (m.goto .DONE))

/-- R170, the comparison over all `W` bits; a mismatch issues no Reset command (R171). -/
def readbackBranch (rb : Word p.W) (m : Fwc p) : Fwc p :=
  m.select (if rb = m.DATA then .Success else .ReadBackError) .DONE

/-- READBACK (R170): `rb <- BusRead(ADDR)`, then the comparison with `DATA`. -/
def execReadback (s : State) : Out State :=
  lift (s.fwc.busRead s.fwc.ADDR fun rb m => .next (readbackBranch rb m))

end Sys2Proof.Machine
end

