-- ==== Sys2Proof/Machine/Request.lean ====
section
/-! DEFINITION. ACCEPT and RESPOND (40_request.md). -/

namespace Sys2Proof.Machine

/-- ACCEPT (R100): with `req_ready` and `req_valid`, the request's fields are latched and the operation starts; else
nothing is performed and nothing written (R101, R102). -/
def execAccept (s : State) : Out State :=
  let m := s.fwc
  let q : Req s.params.A s.params.W := ⟨m.pins.req_addr, m.pins.req_value⟩
  if m.req_ready && m.pins.req_valid then
    lift (.next (((m.emit (.request q)).latch q).goto .TSTART))
  else
    .next s

/-- RESPOND (R105): with `rsp_valid` and `rsp_ready`, the response with `rsp_result` is taken and `STATE <- IDLE`; else
DONE is held (R106). Taking the reserved code 7 is a fault (R87, U6; log 9). -/
def execRespond (s : State) : Out State :=
  let m := s.fwc
  if m.rsp_valid && m.pins.rsp_ready then
    if m.rsp_result = reservedResult then .fault .reservedResultCode
    else lift (.next ((m.emit (.response m.rsp_result)).goto .IDLE))
  else
    .next s

end Sys2Proof.Machine
end

