-- ==== Sys2Proof/Machine/Sequencer.lean ====
section
/-! DEFINITION. TIME_START, CMD_PROGRAM, DATA_WRITE (41_sequencer.md). -/

namespace Sys2Proof.Machine

/-- TIME_START (R120): `T0 <- TimeRead()`, `STATE <- CMD`. -/
def execTimeStart (s : State) : Out State :=
  lift (s.fwc.timeRead fun t m => .next ((m.setT0 t).goto .CMD))

/-- CMD_PROGRAM (R123): `BusWrite(CMD_REG_ADDR, PROGRAM_CMD)`, `STATE <- DATA`. -/
def execCmdProgram (s : State) : Out State :=
  lift (s.fwc.busWrite (cmdRegAddr s.params) (programCmd s.params) fun m => .next (m.goto .DATA))

/-- DATA_WRITE (R125): `BusWrite(ADDR, DATA)`, `STATE <- POLL`. -/
def execDataWrite (s : State) : Out State :=
  lift (s.fwc.busWrite s.fwc.ADDR s.fwc.DATA fun m => .next (m.goto .POLL))

end Sys2Proof.Machine
end

