-- ==== Sys2Proof/Machine/Dispatch.lean ====
section
/-! DEFINITION. The meaning of each operation, one arm per constructor of Instr (30_encoding.md R76). -/

namespace Sys2Proof.Machine

def exec (i : Instr) (s : State) : Host.Outcome State Fault Refusal :=
  match i with
  | .accept => Sys2Proof.Machine.execAccept s
  | .timeStart => Sys2Proof.Machine.execTimeStart s
  | .cmdProgram => Sys2Proof.Machine.execCmdProgram s
  | .dataWrite => Sys2Proof.Machine.execDataWrite s
  | .statusRead => Sys2Proof.Machine.execStatusRead s
  | .timeCheck => Sys2Proof.Machine.execTimeCheck s
  | .cmdReset => Sys2Proof.Machine.execCmdReset s
  | .readback => Sys2Proof.Machine.execReadback s
  | .respond => Sys2Proof.Machine.execRespond s

end Sys2Proof.Machine
end

