-- ==== Sys2Proof/Machine/Step.lean ====
section
/-! DEFINITION. One step of the machine (00_scope.md R11): the parameters are checked, the input ports sampled, reset
taken if `rst` is 1 (70_reset_and_hazards.md R230), else the operation that `STATE` selects is performed. -/

namespace Sys2Proof.Machine

/-- One step of a machine whose input ports are sampled: "Reset takes precedence over whatever step `STATE` names"
(R230); unused codes have no step (30_encoding.md R86). -/
def runSampled (s : State) : Host.Outcome State Fault Refusal :=
  if s.fwc.pins.rst then
    .next ⟨s.params, s.fwc.resetStep⟩
  else
    match decode s.fwc.STATE with
    | .ok i                       => exec i s
    | .error (.unusedStateCode c) => .fault (.unusedStateCode c)

/-- One step; an ill-formed parameter set has no machine (R6). -/
def step (s : State) : Host.Outcome State Fault Refusal :=
  if s.params.WellFormed then runSampled s.sample else .refused .illFormedParams

/-- Levels under which any operation is performed at once: no reset, a request offered, the response taken, every
transaction completing. -/
def performing (p : Params) : Inputs p where
  rst       := false
  req_valid := true
  req_addr  := 0
  req_value := 0
  rsp_ready := true
  bus_rdata := some 0
  time_now  := some 0

/-- `s` with the operation that the bits `w` select as the very next one: `STATE` holds the code, and the next step's
input levels let the operation happen (log 12). -/
def State.withFetchWord (s : State) (_nbits w : Nat) : State :=
  ⟨s.params, { s.fwc with STATE := BitVec.ofNat 4 w, env := performing s.params :: s.fwc.env }⟩

end Sys2Proof.Machine
end

