-- ==== Sys2Proof/Safety.lean ====
section
/-! DEFINITION. The terms in which claims about runs are made: the successor table (10_state.md R26), the accesses the FWC
may issue (20_memory.md R51), the transactions of one operation and their four shapes (40_request.md R103), the invariant
that ties `STATE` and the registers to them, and the agreement of two machines (40_request.md R107). -/

namespace Sys2Proof.Machine

variable {p : Params}

/-! ### Inputs under which a step goes through -/

/-- No reset, and the bus transaction of the step completes (00_scope.md R11, 42_poll.md R150). -/
def Inputs.BusCompletes (x : Inputs p) : Prop := x.rst = false ∧ x.bus_rdata.isSome

/-- No reset, and the bus answers the word `v`. -/
def Inputs.BusAnswers (x : Inputs p) (v : Word p.W) : Prop := x.rst = false ∧ x.bus_rdata = some v

/-- No reset, and the time port answers `t`. -/
def Inputs.TimeAnswers (x : Inputs p) (t : Time) : Prop := x.rst = false ∧ x.time_now = some t

/-! ### Successors and accesses -/

/-- R26: `g` is the successor of `f`, under the condition its row gives, when the registers are those of `m` and the step
sees the inputs `x`. -/
def Successor (m : Fwc p) (x : Inputs p) : FsmState → FsmState → Prop
  | .IDLE,   .IDLE   => x.req_valid = false
  | .IDLE,   .TSTART => x.req_valid = true
  | .TSTART, .CMD    => True
  | .CMD,    .DATA   => True
  | .DATA,   .POLL   => True
  | .POLL,   .TCHK   => ∃ sr, x.bus_rdata = some sr ∧ isReady p sr = false
  | .POLL,   .RST    => ∃ sr, x.bus_rdata = some sr ∧ isReady p sr = true ∧ classify p sr ≠ none
  | .POLL,   .RB     => ∃ sr, x.bus_rdata = some sr ∧ isReady p sr = true ∧ classify p sr = none
  | .TCHK,   .POLL   => ∃ t, x.time_now = some t ∧ timedOut p m.T0 t = false
  | .TCHK,   .DONE   => ∃ t, x.time_now = some t ∧ timedOut p m.T0 t = true
  | .RST,    .DONE   => True
  | .RB,     .DONE   => True
  | .DONE,   .DONE   => x.rsp_ready = false
  | .DONE,   .IDLE   => x.rsp_ready = true
  | _, _ => False

/-- R51, row by row: the bus transaction `tx` is one the FWC may issue in the state of `m`. -/
def AllowedAccess (m : Fwc p) (tx : BusTx p.A p.W) : Prop :=
  (m.STATE = FsmState.CMD.code ∧ tx = ⟨.write, cmdRegAddr p, programCmd p⟩) ∨
  (m.STATE = FsmState.DATA.code ∧ tx = ⟨.write, m.ADDR, m.DATA⟩) ∨
  (m.STATE = FsmState.POLL.code ∧ tx.op = .read ∧ tx.addr = statusRegAddr p) ∨
  (m.STATE = FsmState.RST.code ∧ tx = ⟨.write, cmdRegAddr p, resetCmd p⟩) ∨
  (m.STATE = FsmState.RB.code ∧ tx.op = .read ∧ tx.addr = m.ADDR)

/-! ### The transactions of one operation -/

/-- The transactions of a trace (newest first) back to and with the last accepted request, still newest first. -/
def sinceRequest {A W : Nat} : List (Event A W) → List (Event A W)
  | [] => []
  | .request q :: _ => [.request q]
  | e :: es => e :: sinceRequest es

/-- The transactions of the latest operation, oldest first, in the order of R59. -/
def Fwc.operation (m : Fwc p) : List (Event p.A p.W) := (sinceRequest m.trace).reverse

/-- The request an operation works on, as `ADDR` and `DATA` hold it. -/
def Fwc.held (m : Fwc p) : Req p.A p.W := ⟨m.ADDR, m.DATA⟩

/-- The first four transactions of every operation (R126): the request, `T`, `W CMD PROGRAM_CMD`, `W ADDR DATA`. -/
def opening (p : Params) (q : Req p.A p.W) (t0 : Time) : List (Event p.A p.W) :=
  [.request q, .time t0, .busWrite (cmdRegAddr p) (programCmd p), .busWrite q.address q.value]

/-- The status read `R STATUS -> sr`. -/
def statusLine (p : Params) (sr : Word p.W) : Event p.A p.W := .busRead (statusRegAddr p) sr

/-- The transactions of the polling rounds `xs`, each a status read and a time check (R143). -/
def pollLines (p : Params) (xs : List (Word p.W × Time)) : List (Event p.A p.W) :=
  xs.flatMap fun x => [statusLine p x.1, .time x.2]

/-- Rounds that keep the poll going: not Ready, and not timed out. -/
def Waiting (p : Params) (t0 : Time) (xs : List (Word p.W × Time)) : Prop :=
  ∀ x ∈ xs, isReady p x.1 = false ∧ timedOut p t0 x.2 = false

/-- R103: the transactions `es` of an operation on `q` that ended with the result `r`, up to its response, have one of the
four shapes: timeout, device error, success, read-back error. -/
def OperationShape (p : Params) (q : Req p.A p.W) (r : OpResult) (es : List (Event p.A p.W)) : Prop :=
  ∃ (t0 : Time) (xs : List (Word p.W × Time)) (sr : Word p.W), Waiting p t0 xs ∧
    ((isReady p sr = false ∧ r = .TimeoutError ∧ ∃ t, timedOut p t0 t = true ∧
        es = opening p q t0 ++ pollLines p xs ++ [statusLine p sr, .time t]) ∨
     (isReady p sr = true ∧ classify p sr = some r ∧
        es = opening p q t0 ++ pollLines p xs ++ [statusLine p sr, .busWrite (cmdRegAddr p) (resetCmd p)]) ∨
     (isReady p sr = true ∧ classify p sr = none ∧ r = .Success ∧
        es = opening p q t0 ++ pollLines p xs ++ [statusLine p sr, .busRead q.address q.value]) ∨
     (isReady p sr = true ∧ classify p sr = none ∧ r = .ReadBackError ∧ ∃ rb, rb ≠ q.value ∧
        es = opening p q t0 ++ pollLines p xs ++ [statusLine p sr, .busRead q.address rb]))

/-- The invariant: `STATE` holds a used code, and in every state of an operation the registers and the transactions
performed since its request are those of a run of R103 that has got so far. -/
structure Fwc.Inv (m : Fwc p) : Prop where
  legal  : m.STATE.toNat ≤ 8
  tstart : m.STATE = FsmState.TSTART.code → m.operation = [.request m.held]
  cmd    : m.STATE = FsmState.CMD.code → m.operation = [.request m.held, .time m.T0]
  data   : m.STATE = FsmState.DATA.code →
    m.operation = [.request m.held, .time m.T0, .busWrite (cmdRegAddr p) (programCmd p)]
  poll   : m.STATE = FsmState.POLL.code →
    ∃ xs, Waiting p m.T0 xs ∧ m.operation = opening p m.held m.T0 ++ pollLines p xs
  tchk   : m.STATE = FsmState.TCHK.code →
    ∃ xs, Waiting p m.T0 xs ∧ isReady p m.SR = false ∧
      m.operation = opening p m.held m.T0 ++ pollLines p xs ++ [statusLine p m.SR]
  rst    : m.STATE = FsmState.RST.code →
    ∃ xs r, Waiting p m.T0 xs ∧ isReady p m.SR = true ∧ classify p m.SR = some r ∧ m.RESULT = r.code ∧
      m.operation = opening p m.held m.T0 ++ pollLines p xs ++ [statusLine p m.SR]
  rb     : m.STATE = FsmState.RB.code →
    ∃ xs, Waiting p m.T0 xs ∧ isReady p m.SR = true ∧ classify p m.SR = none ∧
      m.operation = opening p m.held m.T0 ++ pollLines p xs ++ [statusLine p m.SR]
  done   : m.STATE = FsmState.DONE.code → ∃ r, m.RESULT = r.code ∧ OperationShape p m.held r m.operation

/-! ### Two machines that behave alike -/

/-- R36, R37, R107: two FWCs in the same state, facing the same inputs, whose registers agree where the operation in
progress has written them and will still read them. `SR` is never read by a later step (R20). -/
structure Agree (m n : Fwc p) : Prop where
  state  : m.STATE = n.STATE
  env    : m.env = n.env
  draws  : m.draws = n.draws
  held   : m.STATE ∉ [FsmState.IDLE.code, FsmState.RST.code, FsmState.DONE.code] → m.held = n.held
  t0     : m.STATE ∈ [FsmState.CMD.code, FsmState.DATA.code, FsmState.POLL.code, FsmState.TCHK.code] → m.T0 = n.T0
  result : m.STATE ∈ [FsmState.RST.code, FsmState.DONE.code] → m.RESULT = n.RESULT

/-- Two outcomes of machines with the traces `tm` and `tn` go alike: both go on to agreeing machines and have added the
same transactions, or both stop with the same fault, or both are refused alike. -/
def AgreeingOutcomes (p : Params) (tm tn : List (Event p.A p.W)) (a b : Host.Outcome State Fault Refusal) : Prop :=
  (∃ (m n : Fwc p) (es : List (Event p.A p.W)), a = .next ⟨p, m⟩ ∧ b = .next ⟨p, n⟩ ∧ Agree m n ∧
    m.trace = es ++ tm ∧ n.trace = es ++ tn) ∨
  (∃ f, a = .fault f ∧ b = .fault f) ∨
  (∃ r, a = .refused r ∧ b = .refused r)

/-- Two outcomes of machines with the traces `tm` and `tn` show the same: both go on in the same FSM state and have added
the same transactions, or both stop with the same fault, or both are refused alike. -/
def SameTransactions (p : Params) (tm tn : List (Event p.A p.W)) (a b : Host.Outcome State Fault Refusal) : Prop :=
  (∃ (m n : Fwc p) (es : List (Event p.A p.W)), a = .next ⟨p, m⟩ ∧ b = .next ⟨p, n⟩ ∧ m.STATE = n.STATE ∧
    m.trace = es ++ tm ∧ n.trace = es ++ tn) ∨
  (∃ f, a = .fault f ∧ b = .fault f) ∨
  (∃ r, a = .refused r ∧ b = .refused r)

/-- R107: device and time source "return the same values at the same positions of the trace": where two traces both hold
a bus read at a position, the words read are equal, whatever the addresses; likewise for time reads. -/
def SameReadValues {A W : Nat} (es fs : List (Event A W)) : Prop :=
  ∀ i : Nat,
    (∀ a b v w, es[i]? = some (.busRead a v) → fs[i]? = some (.busRead b w) → v = w) ∧
    (∀ t u, es[i]? = some (.time t) → fs[i]? = some (.time u) → t = u)

/-! ### Schedules of inputs -/

/-- The inputs of the polling rounds `ps`, in the order the steps see them: a status read's, then a time check's. -/
def pollInputs (ps : List (Inputs p × Inputs p)) : List (Inputs p) := ps.flatMap fun x => [x.1, x.2]

/-- The inputs `ps` make the polling rounds `xs`, all of them waiting. -/
def MakesRounds (p : Params) (t0 : Time) (ps : List (Inputs p × Inputs p)) (xs : List (Word p.W × Time)) : Prop :=
  List.Forall₂ (fun x y => x.1.BusAnswers y.1 ∧ x.2.TimeAnswers y.2) ps xs ∧ Waiting p t0 xs

/-- The inputs that take an FWC in IDLE through ACCEPT of `q`, TIME_START at `t0`, CMD_PROGRAM and DATA_WRITE. -/
structure OpeningInputs (q : Req p.A p.W) (t0 : Time) (accept start program data : Inputs p) : Prop where
  noReset    : accept.rst = false
  offered    : accept.req_valid = true
  address    : accept.req_addr = q.address
  value      : accept.req_value = q.value
  startTime  : start.TimeAnswers t0
  programmed : program.BusCompletes
  written    : data.BusCompletes

end Sys2Proof.Machine
end

