-- ==== Sys2Proof/Certificates/Slice0/Obligations.lean ====
section
/-! DEFINITION. The statements for the provers. Each docstring names the rule of spec/ it formalises. A statement about an
operation gives the whole next state, so it is also the operation's frame: a field that is not named keeps its value. -/

open Sys2Proof Sys2Proof.Machine

/-! ### Each operation: what it does -/

/-- R100. In IDLE with a request offered, ACCEPT latches both fields, records the request and goes to TSTART. -/
def Obligations.AcceptLatchesTheRequest : Prop :=
  ∀ (p : Params) (m : Fwc p), m.STATE = FsmState.IDLE.code → m.pins.req_valid = true →
    exec .accept ⟨p, m⟩ = .next ⟨p, { m with
      ADDR  := m.pins.req_addr
      DATA  := m.pins.req_value
      STATE := FsmState.TSTART.code
      trace := .request ⟨m.pins.req_addr, m.pins.req_value⟩ :: m.trace }⟩

/-- R101, R102 at the operation: ACCEPT without `req_valid` (or away from IDLE) changes nothing at all. -/
def Obligations.AcceptWithoutRequestChangesNothing : Prop :=
  ∀ (p : Params) (m : Fwc p), (m.pins.req_valid = false ∨ m.STATE ≠ FsmState.IDLE.code) →
    exec .accept ⟨p, m⟩ = .next ⟨p, m⟩

/-- R120. TIME_START writes the time read to `T0` and goes to CMD; every 32-bit time is accepted. -/
def Obligations.TimeStartCapturesTheTime : Prop :=
  ∀ (p : Params) (m : Fwc p) (t : Time), m.pins.time_now = some t →
    exec .timeStart ⟨p, m⟩ = .next ⟨p, { m with
      T0    := t
      STATE := FsmState.CMD.code
      trace := .time t :: m.trace }⟩

/-- R123. CMD_PROGRAM writes `PROGRAM_CMD` to `CMD_REG_ADDR` and goes to DATA. -/
def Obligations.CmdProgramWritesTheProgramCommand : Prop :=
  ∀ (p : Params) (m : Fwc p), m.pins.bus_rdata.isSome →
    exec .cmdProgram ⟨p, m⟩ = .next ⟨p, { m with
      STATE := FsmState.DATA.code
      trace := .bus ⟨.write, BitVec.ofNat p.A p.cmdRegAddr, BitVec.ofNat p.W p.programCmd⟩ :: m.trace }⟩

/-- R125. DATA_WRITE writes `DATA` to `ADDR`, whatever they are, and goes to POLL. -/
def Obligations.DataWriteWritesTheWord : Prop :=
  ∀ (p : Params) (m : Fwc p), m.pins.bus_rdata.isSome →
    exec .dataWrite ⟨p, m⟩ = .next ⟨p, { m with
      STATE := FsmState.POLL.code
      trace := .bus ⟨.write, m.ADDR, m.DATA⟩ :: m.trace }⟩

/-- R140. STATUS_READ reads `STATUS_REG_ADDR` into `SR`, then goes to TCHK (Ready clear), to RB (Ready set, no error), or
writes the selected code to `RESULT` and goes to RST (Ready set, error). Neither `T0` nor the time port plays a part. -/
def Obligations.StatusReadBranches : Prop :=
  ∀ (p : Params) (m : Fwc p) (sr : Word p.W), m.pins.bus_rdata = some sr →
    (isReady p sr = false →
      exec .statusRead ⟨p, m⟩ = .next ⟨p, { m with
        SR    := sr
        STATE := FsmState.TCHK.code
        trace := .bus ⟨.read, BitVec.ofNat p.A p.statusRegAddr, sr⟩ :: m.trace }⟩) ∧
    (isReady p sr = true → classify p sr = none →
      exec .statusRead ⟨p, m⟩ = .next ⟨p, { m with
        SR    := sr
        STATE := FsmState.RB.code
        trace := .bus ⟨.read, BitVec.ofNat p.A p.statusRegAddr, sr⟩ :: m.trace }⟩) ∧
    (∀ c, isReady p sr = true → classify p sr = some c →
      exec .statusRead ⟨p, m⟩ = .next ⟨p, { m with
        SR     := sr
        RESULT := c.code
        STATE  := FsmState.RST.code
        trace  := .bus ⟨.read, BitVec.ofNat p.A p.statusRegAddr, sr⟩ :: m.trace }⟩)

/-- R145. TIME_CHECK takes `(t - T0) mod 2^32` as unsigned: at or above `TIMEOUT_US` it writes code 6 and goes to DONE,
below it goes to POLL. -/
def Obligations.TimeCheckComparesElapsedTime : Prop :=
  ∀ (p : Params) (m : Fwc p) (t : Time), m.pins.time_now = some t →
    (p.timeoutUs ≤ (t.toNat + 2 ^ 32 - m.T0.toNat) % 2 ^ 32 →
      exec .timeCheck ⟨p, m⟩ = .next ⟨p, { m with
        RESULT := 6
        STATE  := FsmState.DONE.code
        trace  := .time t :: m.trace }⟩) ∧
    ((t.toNat + 2 ^ 32 - m.T0.toNat) % 2 ^ 32 < p.timeoutUs →
      exec .timeCheck ⟨p, m⟩ = .next ⟨p, { m with
        STATE := FsmState.POLL.code
        trace := .time t :: m.trace }⟩)

/-- R165. CMD_RESET writes `RESET_CMD` to `CMD_REG_ADDR` and goes to DONE; `RESULT` is unchanged. -/
def Obligations.CmdResetWritesTheResetCommand : Prop :=
  ∀ (p : Params) (m : Fwc p), m.pins.bus_rdata.isSome →
    exec .cmdReset ⟨p, m⟩ = .next ⟨p, { m with
      STATE := FsmState.DONE.code
      trace := .bus ⟨.write, BitVec.ofNat p.A p.cmdRegAddr, BitVec.ofNat p.W p.resetCmd⟩ :: m.trace }⟩

/-- R170. READBACK reads `ADDR` and goes to DONE with code 0 when the word equals `DATA`, with code 5 when any bit
differs. -/
def Obligations.ReadbackComparesTheWord : Prop :=
  ∀ (p : Params) (m : Fwc p) (rb : Word p.W), m.pins.bus_rdata = some rb →
    (rb = m.DATA →
      exec .readback ⟨p, m⟩ = .next ⟨p, { m with
        RESULT := 0
        STATE  := FsmState.DONE.code
        trace  := .bus ⟨.read, m.ADDR, rb⟩ :: m.trace }⟩) ∧
    ((∃ i, i < p.W ∧ rb.getLsbD i ≠ m.DATA.getLsbD i) →
      exec .readback ⟨p, m⟩ = .next ⟨p, { m with
        RESULT := 5
        STATE  := FsmState.DONE.code
        trace  := .bus ⟨.read, m.ADDR, rb⟩ :: m.trace }⟩)

/-- R105. In DONE with `rsp_ready`, RESPOND delivers the code of `RESULT`, whichever of the seven results it is, and goes
to IDLE; `RESULT` keeps its value. Without `rsp_ready`, and with it in any state but DONE, nothing happens. -/
def Obligations.RespondDeliversTheResult : Prop :=
  ∀ (p : Params) (m : Fwc p),
    (∀ r : OpResult, m.STATE = FsmState.DONE.code → m.pins.rsp_ready = true → m.RESULT = r.code →
      exec .respond ⟨p, m⟩ = .next ⟨p, { m with
        STATE := FsmState.IDLE.code
        trace := .response r.code :: m.trace }⟩) ∧
    (m.pins.rsp_ready = false → exec .respond ⟨p, m⟩ = .next ⟨p, m⟩) ∧
    (m.STATE ≠ FsmState.DONE.code → exec .respond ⟨p, m⟩ = .next ⟨p, m⟩)

/-- R106. In DONE, a step without reset and without `rsp_ready` holds: no register and no transaction changes, `rsp_valid`
stays 1, `rsp_result` stays `RESULT`, and an offered request is not accepted; and a step leaves DONE only with `rsp_ready`
or with reset. -/
def Obligations.DoneIsHeldUntilTheResponseIsTaken : Prop :=
  ∀ (p : Params) (m : Fwc p), p.WellFormed → m.STATE = FsmState.DONE.code →
    (m.nextInputs.rst = false → m.nextInputs.rsp_ready = false →
      step ⟨p, m⟩ = .next ⟨p, { m with pins := m.nextInputs, env := m.env.tail, draws := m.draws + 1 }⟩) ∧
    m.rsp_valid = true ∧ m.rsp_result = m.RESULT ∧ m.req_ready = false ∧
    (∀ n : Fwc p, step ⟨p, m⟩ = .next ⟨p, n⟩ → n.STATE ≠ FsmState.DONE.code →
      m.nextInputs.rst = true ∨ m.nextInputs.rsp_ready = true)

/-- R102. In IDLE, a step without reset and without `req_valid` performs no transaction and writes no register. -/
def Obligations.IdleWaitsForARequest : Prop :=
  ∀ (p : Params) (m : Fwc p), p.WellFormed → m.STATE = FsmState.IDLE.code → m.nextInputs.rst = false →
    m.nextInputs.req_valid = false →
    step ⟨p, m⟩ = .next ⟨p, { m with pins := m.nextInputs, env := m.env.tail, draws := m.draws + 1 }⟩

/-- 93_implementation_defined.md U6 (log 9): taking a response with the reserved code 7 is a fault. -/
def Obligations.RespondWithReservedCodeFaults : Prop :=
  ∀ (p : Params) (m : Fwc p), m.STATE = FsmState.DONE.code → m.pins.rsp_ready = true → m.RESULT = 7 →
    exec .respond ⟨p, m⟩ = .fault .reservedResultCode

/-- 93_implementation_defined.md U11 and R150 (log 7): an operation whose transaction never completes is stuck. -/
def Obligations.TransactionThatNeverCompletesHangs : Prop :=
  ∀ (p : Params) (m : Fwc p),
    (∀ i ∈ [Instr.cmdProgram, .dataWrite, .statusRead, .cmdReset, .readback], m.pins.bus_rdata = none →
      exec i ⟨p, m⟩ = .fault .busNeverCompletes) ∧
    (∀ i ∈ [Instr.timeStart, .timeCheck], m.pins.time_now = none → exec i ⟨p, m⟩ = .fault .timeNeverCompletes)

/-! ### The step -/

/-- R11, R76, R85: with well-formed parameters and no reset, a step samples the input ports and is exec of the operation
that `STATE` decodes to. The ports take the first scheduled record (log 4: the model's choice). -/
def Obligations.StepRunsTheDecodedOperation : Prop :=
  ∀ (p : Params) (m : Fwc p) (i : Instr), p.WellFormed → m.nextInputs.rst = false → decode m.STATE = .ok i →
    step ⟨p, m⟩ = exec i ⟨p, { m with pins := m.nextInputs, env := m.env.tail, draws := m.draws + 1 }⟩ ∧
    (∀ x rest, m.env = x :: rest → m.nextInputs = x)

/-- R230. With `rst`, whatever code `STATE` holds, the step performs no transaction, adds no response and goes to IDLE. -/
def Obligations.ResetTakesPrecedenceOverEveryState : Prop :=
  ∀ (p : Params) (m : Fwc p), p.WellFormed → m.nextInputs.rst = true →
    ∃ n : Fwc p, step ⟨p, m⟩ = .next ⟨p, n⟩ ∧ n.STATE = FsmState.IDLE.code ∧ n.trace = m.trace ∧
      n.env = m.env.tail ∧ n.pins = m.nextInputs

/-- R231. After reset, in State.reset and after any reset step, the FWC is ready for a request: `req_ready = 1`,
`rsp_valid = 0`, `busy = 0`. -/
def Obligations.ResetLeavesTheFwcReady : Prop :=
  (State.reset.fwc.STATE = FsmState.IDLE.code ∧ State.reset.fwc.req_ready = true ∧ State.reset.fwc.rsp_valid = false ∧
    State.reset.fwc.busy = false) ∧
  ∀ (p : Params) (m n : Fwc p), m.nextInputs.rst = true → step ⟨p, m⟩ = .next ⟨p, n⟩ →
    n.STATE = FsmState.IDLE.code ∧ n.req_ready = true ∧ n.rsp_valid = false ∧ n.busy = false

/-- R86. A `STATE` code of 9 to 15 has no step, and no step from any state writes one. -/
def Obligations.UnusedStateCodesAreStuckAndNeverWritten : Prop :=
  (∀ (p : Params) (m : Fwc p), p.WellFormed → m.nextInputs.rst = false → 9 ≤ m.STATE.toNat →
    step ⟨p, m⟩ = .fault (.unusedStateCode m.STATE)) ∧
  (∀ (s t : State), step s = .next t → t.fwc.STATE.toNat ≤ 8)

/-- R6. A machine is refused exactly when its parameter set breaks one of the conditions, in every state. -/
def Obligations.IllFormedParametersAreRefused : Prop :=
  ∀ (p : Params) (m : Fwc p), step ⟨p, m⟩ = .refused .illFormedParams ↔
    (p.W < 8 ∨ p.A < 1 ∨
     (∃ i j : Fin 8, i ≠ j ∧ p.positions[i.val]? = p.positions[j.val]?) ∨
     (∃ i ∈ [p.posReady, p.posEraseSuspend, p.posEraseError, p.posProgramError, p.posVppError, p.posProgramSuspend,
        p.posBlockProtectionError, p.posReserved], p.W - 1 < i) ∨
     2 ^ p.A - 1 < p.cmdRegAddr ∨ 2 ^ p.A - 1 < p.statusRegAddr ∨
     2 ^ p.W - 1 < p.programCmd ∨ 2 ^ p.W - 1 < p.resetCmd ∨ 2 ^ 32 - 1 < p.timeoutUs)

/-- R26. A step without reset goes from a state to one of its successors, under the condition of that row. -/
def Obligations.StepsFollowTheSuccessorTable : Prop :=
  ∀ (p : Params) (m n : Fwc p) (f : FsmState), m.nextInputs.rst = false → m.STATE = f.code →
    step ⟨p, m⟩ = .next ⟨p, n⟩ →
    ∃ g : FsmState, n.STATE = g.code ∧ Successor m m.nextInputs f g

/-- R35 (no configuration write): no step changes a parameter. -/
def Obligations.NoStepChangesTheParameters : Prop :=
  ∀ s t : State, step s = .next t → t.params = s.params

/-- R20's column "written by", over all operations: each register is written only by the operations named there, `RESULT`
only on the way into RST or DONE; the input ports and the model's schedule are written by none. -/
def Obligations.RegistersAreWrittenOnlyByTheirOperations : Prop :=
  ∀ (p : Params) (m n : Fwc p) (i : Instr), exec i ⟨p, m⟩ = .next ⟨p, n⟩ →
    (i ≠ .accept → n.ADDR = m.ADDR ∧ n.DATA = m.DATA) ∧
    (i ≠ .timeStart → n.T0 = m.T0) ∧
    (i ≠ .statusRead → n.SR = m.SR) ∧
    (n.RESULT ≠ m.RESULT →
      (i = .statusRead ∧ n.STATE = FsmState.RST.code) ∨
      (i ∈ [Instr.timeCheck, .readback] ∧ n.STATE = FsmState.DONE.code)) ∧
    n.pins = m.pins ∧ n.env = m.env ∧ n.draws = m.draws

/-- R51 ("exactly these accesses, and no others"): a step adds at most one transaction to the trace (R11), and a bus
transaction is one of the five rows, in the state of its row. -/
def Obligations.StepsIssueOnlyTheListedAccesses : Prop :=
  ∀ (p : Params) (m n : Fwc p), step ⟨p, m⟩ = .next ⟨p, n⟩ →
    n.trace = m.trace ∨ ∃ e, n.trace = e :: m.trace ∧ ∀ tx, e = .bus tx → AllowedAccess m tx

/-- R210: time is read in TSTART and in TCHK and nowhere else; R100, R105: requests are taken only in IDLE and responses
given only in DONE. -/
def Obligations.TimeRequestsAndResponsesHaveTheirStates : Prop :=
  ∀ (p : Params) (m n : Fwc p) (e : Event p.A p.W), step ⟨p, m⟩ = .next ⟨p, n⟩ → n.trace = e :: m.trace →
    (∀ t, e = .time t → m.STATE = FsmState.TSTART.code ∨ m.STATE = FsmState.TCHK.code) ∧
    (∀ q, e = .request q → m.STATE = FsmState.IDLE.code) ∧
    (∀ r, e = .response r → m.STATE = FsmState.DONE.code)

/-- R25: no step without reset writes the reserved code 7 to `RESULT`: it keeps its value or takes one of the seven codes. -/
def Obligations.ReservedResultCodeIsNeverWritten : Prop :=
  ∀ (p : Params) (m n : Fwc p), m.nextInputs.rst = false → step ⟨p, m⟩ = .next ⟨p, n⟩ →
    n.RESULT = m.RESULT ∨ n.RESULT.toNat ≤ 6

/-- R101. Off IDLE, `req_ready` is 0 and what a step does is the same whatever the request ports show (only their sampled
levels differ); in IDLE, an offered request is accepted with its own fields. -/
def Obligations.RequestsAreTakenOnlyInIdle : Prop :=
  (∀ (p : Params) (m : Fwc p) (x : Inputs p) (rest : List (Inputs p)) (v : Bool) (a : Address p.A) (d : Word p.W),
    m.env = x :: rest → m.STATE ≠ FsmState.IDLE.code → p.WellFormed →
    m.req_ready = false ∧
    ((∃ n : Fwc p, step ⟨p, m⟩ = .next ⟨p, { n with pins := x }⟩ ∧
        step ⟨p, { m with env := { x with req_valid := v, req_addr := a, req_value := d } :: rest }⟩ =
          .next ⟨p, { n with pins := { x with req_valid := v, req_addr := a, req_value := d } }⟩) ∨
     (∃ f, step ⟨p, m⟩ = .fault f ∧
        step ⟨p, { m with env := { x with req_valid := v, req_addr := a, req_value := d } :: rest }⟩ = .fault f))) ∧
  (∀ (p : Params) (m : Fwc p), p.WellFormed → m.STATE = FsmState.IDLE.code → m.nextInputs.rst = false →
    m.nextInputs.req_valid = true →
    ∃ n : Fwc p, step ⟨p, m⟩ = .next ⟨p, n⟩ ∧ n.STATE = FsmState.TSTART.code ∧ n.ADDR = m.nextInputs.req_addr ∧
      n.DATA = m.nextInputs.req_value)

/-- R200 (no exception, trap or fault): from a state that meets the invariant, a step whose transactions complete goes
on. -/
def Obligations.StepGoesOnWhenTransactionsComplete : Prop :=
  ∀ (p : Params) (m : Fwc p), p.WellFormed → m.Inv → m.nextInputs.bus_rdata.isSome → m.nextInputs.time_now.isSome →
    ∃ n : Fwc p, step ⟨p, m⟩ = .next ⟨p, n⟩

/-! ### The operation as a whole -/

/-- The invariant holds after reset. -/
def Obligations.ResetMeetsTheOperationInvariant : Prop :=
  State.reset.fwc.Inv

/-- R26, R103: every step, from every state that meets the invariant, keeps it. -/
def Obligations.StepKeepsTheOperationInvariant : Prop :=
  ∀ (p : Params) (m n : Fwc p), m.Inv → step ⟨p, m⟩ = .next ⟨p, n⟩ → n.Inv

/-- R103: when a step gives the response, the operation's transactions have one of the four shapes, and the response
carries that shape's result. -/
def Obligations.EveryOperationHasOneOfFourShapes : Prop :=
  ∀ (p : Params) (m n : Fwc p) (c : ResultCode), m.Inv → step ⟨p, m⟩ = .next ⟨p, n⟩ →
    n.trace = .response c :: m.trace →
    ∃ r : OpResult, c = r.code ∧ OperationShape p m.held r m.operation

/-- R167, R172: in DONE, the operation's last transaction is the Reset command exactly for the four device errors, the
read-back of `ADDR` exactly for Success and ReadBackError, a time read exactly for TimeoutError. -/
def Obligations.LastTransactionTellsTheKindOfResult : Prop :=
  ∀ (p : Params) (m : Fwc p) (r : OpResult), m.Inv → m.STATE = FsmState.DONE.code → m.RESULT = r.code →
    (m.operation.getLast? = some (.bus ⟨.write, cmdRegAddr p, resetCmd p⟩) ↔
      r ∈ [OpResult.VppError, .ProgramError, .ProtectedBlockError, .UnknownProgramError]) ∧
    ((∃ rb, m.operation.getLast? = some (.bus ⟨.read, m.ADDR, rb⟩)) ↔
      r ∈ [OpResult.Success, .ReadBackError]) ∧
    ((∃ t, m.operation.getLast? = some (.time t)) ↔ r = .TimeoutError)

/-- R36, R37: one step of two FWCs that agree goes alike: what registers were left with plays no part. -/
def Obligations.LeftoverRegistersDoNotMatterToAStep : Prop :=
  ∀ (p : Params) (m n : Fwc p), Agree m n → AgreeingOutcomes p m.trace n.trace (step ⟨p, m⟩) (step ⟨p, n⟩)

/-- R107 in part (not all of it: here the levels of ports that are not read agree too, and so do the draw counts, log 5):
two FWCs in IDLE that face the same inputs perform the same transactions in every number of steps, past the scheduled inputs
too, whatever earlier operations or a reset left in their registers and traces. -/
def Obligations.SameInputsGiveTheSameOperation : Prop :=
  ∀ (k : Nat) (p : Params) (m n : Fwc p), m.STATE = FsmState.IDLE.code → n.STATE = FsmState.IDLE.code →
    m.env = n.env → m.draws = n.draws →
    AgreeingOutcomes p m.trace n.trace (core.run k (State.mk p m)) (core.run k (State.mk p n))

/-- R107: two operations with the same request, whose reads return the same values at the same positions of the trace,
are in the same state after equally many transactions and have performed the same ones; when both are complete, they have
performed the same transactions and selected the same result. Nothing else is asked of the two FWCs: not their registers,
their earlier traces, their draw counts, or the input levels of ports that are not read. -/
def Obligations.SameRequestAndReadValuesGiveTheSameOperation : Prop :=
  ∀ (p : Params) (m n : Fwc p), m.Inv → n.Inv → m.STATE ≠ FsmState.IDLE.code → n.STATE ≠ FsmState.IDLE.code →
    m.operation.head? = n.operation.head? → SameReadValues m.operation n.operation →
    (m.operation.length = n.operation.length → m.operation = n.operation ∧ m.STATE = n.STATE) ∧
    (m.STATE = FsmState.DONE.code → n.STATE = FsmState.DONE.code → m.operation = n.operation ∧ m.RESULT = n.RESULT)

/-- R107 within a schedule: as long as the scheduled inputs last, two FWCs in IDLE that face the same ones perform the same
transactions, whatever their registers, traces and draw counts: an operation after any number of steps is compared with one
after none. A reset in between leaves free values in the registers, and they play no part either. -/
def Obligations.SameScheduledInputsGiveTheSameTransactions : Prop :=
  ∀ (k : Nat) (p : Params) (m n : Fwc p), m.STATE = FsmState.IDLE.code → n.STATE = FsmState.IDLE.code →
    m.env = n.env → k ≤ m.env.length →
    SameTransactions p m.trace n.trace (core.run k (State.mk p m)) (core.run k (State.mk p n))

/-- R148: `N` waiting rounds and then a Ready read: exactly `N + 1` status reads and `N` time checks, in `2 N + 1` steps,
and the FWC has decoded. -/
def Obligations.PollReadsStatusOncePerRoundAndOnceMore : Prop :=
  ∀ (p : Params) (m : Fwc p) (ps : List (Inputs p × Inputs p)) (xs : List (Word p.W × Time)) (x : Inputs p)
    (sr : Word p.W) (rest : List (Inputs p)),
    p.WellFormed → m.STATE = FsmState.POLL.code → m.env = pollInputs ps ++ x :: rest →
    MakesRounds p m.T0 ps xs → x.BusAnswers sr → isReady p sr = true →
    ∃ n : Fwc p, core.run (2 * xs.length + 1) (State.mk p m) = .next (State.mk p n) ∧
      (n.STATE = FsmState.RST.code ∨ n.STATE = FsmState.RB.code) ∧ n.SR = sr ∧ n.env = rest ∧
      n.ADDR = m.ADDR ∧ n.DATA = m.DATA ∧ n.T0 = m.T0 ∧
      n.trace = (pollLines p xs ++ [statusLine p sr]).reverse ++ m.trace

/-- R103 (success and read-back error), with R246's step count for these ends: with `k` waiting rounds, a Ready word without error and a read-back, an
operation takes `2 k + 7` steps from ACCEPT to RESPOND and gives Success or ReadBackError by the comparison. -/
def Obligations.OperationEndingInReadbackRuns : Prop :=
  ∀ (p : Params) (m : Fwc p) (q : Req p.A p.W) (t0 : Time) (ps : List (Inputs p × Inputs p))
    (xs : List (Word p.W × Time)) (accept start program data x y z : Inputs p) (sr rb : Word p.W)
    (rest : List (Inputs p)),
    p.WellFormed → m.STATE = FsmState.IDLE.code →
    m.env = [accept, start, program, data] ++ pollInputs ps ++ [x, y, z] ++ rest →
    OpeningInputs q t0 accept start program data → MakesRounds p t0 ps xs →
    x.BusAnswers sr → isReady p sr = true → classify p sr = none → y.BusAnswers rb →
    z.rst = false → z.rsp_ready = true →
    ∃ n : Fwc p, core.run (2 * xs.length + 7) (State.mk p m) = .next (State.mk p n) ∧
      n.STATE = FsmState.IDLE.code ∧ n.env = rest ∧
      n.trace = (opening p q t0 ++ pollLines p xs ++
        [statusLine p sr, .busRead q.address rb,
          .response (if rb = q.value then OpResult.Success.code else OpResult.ReadBackError.code)]).reverse ++ m.trace

/-- R166 (device error), with R246's step count for this end: with `k` waiting rounds and a Ready word that selects `e`, an operation takes `2 k + 7`
steps; the Reset command is the only transaction between the last status read and the response. -/
def Obligations.OperationEndingInDeviceErrorRuns : Prop :=
  ∀ (p : Params) (m : Fwc p) (q : Req p.A p.W) (t0 : Time) (ps : List (Inputs p × Inputs p))
    (xs : List (Word p.W × Time)) (accept start program data x y z : Inputs p) (sr : Word p.W) (e : OpResult)
    (rest : List (Inputs p)),
    p.WellFormed → m.STATE = FsmState.IDLE.code →
    m.env = [accept, start, program, data] ++ pollInputs ps ++ [x, y, z] ++ rest →
    OpeningInputs q t0 accept start program data → MakesRounds p t0 ps xs →
    x.BusAnswers sr → isReady p sr = true → classify p sr = some e → y.BusCompletes →
    z.rst = false → z.rsp_ready = true →
    ∃ n : Fwc p, core.run (2 * xs.length + 7) (State.mk p m) = .next (State.mk p n) ∧
      n.STATE = FsmState.IDLE.code ∧ n.env = rest ∧
      n.trace = (opening p q t0 ++ pollLines p xs ++
        [statusLine p sr, .busWrite (cmdRegAddr p) (resetCmd p), .response e.code]).reverse ++ m.trace

/-- R147 (timeout), with R246's step count for this end: with `k` status reads, the last of them followed by a time check that finds the bound reached,
an operation takes `2 k + 5` steps and gives TimeoutError with no Reset command and no read-back. -/
def Obligations.OperationEndingInTimeoutRuns : Prop :=
  ∀ (p : Params) (m : Fwc p) (q : Req p.A p.W) (t0 : Time) (ps : List (Inputs p × Inputs p))
    (xs : List (Word p.W × Time)) (accept start program data x y z : Inputs p) (sr : Word p.W) (t : Time)
    (rest : List (Inputs p)),
    p.WellFormed → m.STATE = FsmState.IDLE.code →
    m.env = [accept, start, program, data] ++ pollInputs ps ++ [x, y, z] ++ rest →
    OpeningInputs q t0 accept start program data → MakesRounds p t0 ps xs →
    x.BusAnswers sr → isReady p sr = false → y.TimeAnswers t → timedOut p t0 t = true →
    z.rst = false → z.rsp_ready = true →
    ∃ n : Fwc p, core.run (2 * (xs.length + 1) + 5) (State.mk p m) = .next (State.mk p n) ∧
      n.STATE = FsmState.IDLE.code ∧ n.env = rest ∧
      n.trace = (opening p q t0 ++ pollLines p xs ++
        [statusLine p sr, .time t, .response OpResult.TimeoutError.code]).reverse ++ m.trace

/-- R150: with every transaction completing, no reset, and a time check that finds the bound reached, the poll ends within
two steps per round, whatever the status words are and whatever the earlier time checks find. -/
def Obligations.PollEndsOnceTheTimeHasPassed : Prop :=
  ∀ (p : Params) (m : Fwc p) (ps : List (Inputs p × Inputs p)) (last : Inputs p × Inputs p) (t : Time)
    (rest : List (Inputs p)),
    p.WellFormed → m.STATE = FsmState.POLL.code → m.env = pollInputs (ps ++ [last]) ++ rest →
    (∀ x ∈ ps ++ [last], x.1.BusCompletes ∧ x.2.rst = false ∧ x.2.time_now.isSome) →
    last.2.time_now = some t → timedOut p m.T0 t = true →
    ∃ (k : Nat) (n : Fwc p), k ≤ 2 * (ps.length + 1) ∧ core.run k (State.mk p m) = .next (State.mk p n) ∧
      (n.STATE = FsmState.RST.code ∨ n.STATE = FsmState.RB.code ∨ n.STATE = FsmState.DONE.code)

/-! ### Status words -/

/-- R141: a word shows Ready exactly when `(sr & M_READY) != 0`, that is, when bit `POS_READY` is 1. -/
def Obligations.ReadyIsTheReadyBit : Prop :=
  ∀ (p : Params) (sr : Word p.W), p.WellFormed →
    (isReady p sr = true ↔ sr &&& BitVec.twoPow p.W p.posReady ≠ 0#p.W) ∧
    (isReady p sr = true ↔ sr.getLsbD p.posReady = true)

/-- R162: the complete decode table, row by row, in terms of the bits: `O` is any of the four error-adjacent flags, `U` any
bit at none of the eight positions. -/
def Obligations.DecodeTableOfAReadyWord : Prop :=
  ∀ (p : Params) (sr : Word p.W) (V P B : Bool) (O U : Prop), p.WellFormed →
    V = sr.getLsbD p.posVppError → P = sr.getLsbD p.posProgramError → B = sr.getLsbD p.posBlockProtectionError →
    (O ↔ ∃ i ∈ [p.posEraseSuspend, p.posEraseError, p.posProgramSuspend, p.posReserved], sr.getLsbD i = true) →
    (U ↔ ∃ i, i < p.W ∧ i ∉ p.positions ∧ sr.getLsbD i = true) →
    (V = true → classify p sr = some .VppError) ∧
    (V = false → P = true → classify p sr = some .ProgramError) ∧
    (V = false → P = false → B = true → classify p sr = some .ProtectedBlockError) ∧
    (V = false → P = false → B = false → O → classify p sr = some .UnknownProgramError) ∧
    (V = false → P = false → B = false → ¬ O → ¬ U → classify p sr = none) ∧
    (V = false → P = false → B = false → ¬ O → U → p.unnamedBitsAreErrors = false → classify p sr = none) ∧
    (V = false → P = false → B = false → ¬ O → U → p.unnamedBitsAreErrors = true →
      classify p sr = some .UnknownProgramError)

/-- R161, R163: with `UNNAMED_BITS_ARE_ERRORS` false, words that agree at the eight named positions are decoded alike. -/
def Obligations.UnnamedBitsDoNotSelectAnError : Prop :=
  ∀ (p : Params) (a b : Word p.W), p.WellFormed → p.unnamedBitsAreErrors = false →
    (∀ i ∈ p.positions, a.getLsbD i = b.getLsbD i) → isReady p a = isReady p b ∧ classify p a = classify p b

/-- R78: `M_NAMED` has eight bits, so `M_UNNAMED` has the other `W - 8`; it is zero when `W = 8`, and then the parameter
has no effect (R161). -/
def Obligations.NamedMaskHasEightBits : Prop :=
  ∀ (p : Params), p.WellFormed →
    ((List.range p.W).filter fun i => (mNamed p).getLsbD i).length = 8 ∧
    ((List.range p.W).filter fun i => (mUnnamed p).getLsbD i).length = p.W - 8 ∧
    (p.W = 8 → ∀ sr : Word p.W, ∀ b, classify { p with unnamedBitsAreErrors := b } sr = classify p sr)

/-- R78: the masks at the parameter values R5 takes. -/
def Obligations.MasksAtTheTakenParameters : Prop :=
  (mReady Params.taken).toNat = 0x0080 ∧ (mVpp Params.taken).toNat = 0x0008 ∧ (mProg Params.taken).toNat = 0x0010 ∧
  (mBp Params.taken).toNat = 0x0002 ∧ (mOther Params.taken).toNat = 0x0065 ∧ (mNamed Params.taken).toNat = 0x00FF ∧
  (mUnnamed Params.taken).toNat = 0xFF00

/-! ### Time -/

/-- R146: a start time and a time check shifted alike give the same outcome: the timeout is taken at the same check
whatever `T0` is. -/
def Obligations.TimeCheckDependsOnElapsedTimeOnly : Prop :=
  ∀ (p : Params) (m : Fwc p) (t shift : Time), m.pins.time_now = some t →
    ∃ a b : Fwc p, exec .timeCheck ⟨p, m⟩ = .next ⟨p, a⟩ ∧
      exec .timeCheck ⟨p, { m with T0 := m.T0 + shift, pins := { m.pins with time_now := some (t + shift) } }⟩ =
        .next ⟨p, b⟩ ∧ b.STATE = a.STATE ∧ b.RESULT = a.RESULT

/-- R151: with `TIMEOUT_US = 0` every time check times out; with `0xFFFFFFFF` only an elapsed time of `0xFFFFFFFF` does. -/
def Obligations.TimeoutBoundExtremes : Prop :=
  ∀ (p : Params) (m n : Fwc p) (t : Time), m.pins.time_now = some t → exec .timeCheck ⟨p, m⟩ = .next ⟨p, n⟩ →
    (p.timeoutUs = 0 → n.STATE = FsmState.DONE.code ∧ n.RESULT = OpResult.TimeoutError.code) ∧
    (p.timeoutUs = 0xFFFFFFFF → (n.STATE = FsmState.DONE.code ↔ t = m.T0 - 1))

/-! ### Encodings and ports -/

/-- R85, R76: encoding and decoding of `STATE` agree, both ways. -/
def Obligations.StateCodesDecodeAndEncodeAgree : Prop :=
  (∀ i : Instr, decode (encode i) = .ok i) ∧ (∀ (c : StateCode) (i : Instr), decode c = .ok i → encode i = c) ∧
  (∀ c : StateCode, 9 ≤ c.toNat → decode c = .error (.unusedStateCode c))

/-- R85: the codes as the table gives them. -/
def Obligations.StateCodesSelectTheirOperations : Prop :=
  decode 0b0000#4 = .ok .accept ∧ decode 0b0001#4 = .ok .timeStart ∧ decode 0b0010#4 = .ok .cmdProgram ∧
  decode 0b0011#4 = .ok .dataWrite ∧ decode 0b0100#4 = .ok .statusRead ∧ decode 0b0101#4 = .ok .timeCheck ∧
  decode 0b0110#4 = .ok .cmdReset ∧ decode 0b0111#4 = .ok .readback ∧ decode 0b1000#4 = .ok .respond

/-- R80: the seven codes in the source's order, and the reserved code 7. -/
def Obligations.ResultCodesAreTheSourcesOrder : Prop :=
  [OpResult.Success, .VppError, .ProgramError, .ProtectedBlockError, .UnknownProgramError, .ReadBackError,
    .TimeoutError].map (fun r => r.code.toNat) = [0, 1, 2, 3, 4, 5, 6] ∧
  (∀ r : OpResult, decodeResult r.code = some r) ∧ decodeResult 7 = none

/-- R70, R71: at all widths, a request is packed and read back whole, and every pattern is a request. -/
def Obligations.RequestPackingIsABijection : Prop :=
  ∀ (A W : Nat), (∀ q : Req A W, unpackReq (packReq q) = q) ∧ (∀ b : BitVec (A + W), packReq (unpackReq b) = b)

/-- R74: at all widths, a bus transaction record is packed and read back whole, every pattern is a record, and `op` is the
top bit (`1` = write). -/
def Obligations.TransactionPackingIsABijection : Prop :=
  ∀ (A W : Nat), (∀ x : BusTx A W, unpackTx (packTx x) = x) ∧
    (∀ b : BitVec (1 + A + W), packTx (unpackTx b : BusTx A W) = b) ∧
    (∀ x : BusTx A W, (packTx x).getLsbD (A + W) = true ↔ x.op = .write)

/-- R31: the output ports in every state; exactly one of `req_ready`, `rsp_valid`, `busy` is 1. -/
def Obligations.OutputPortsFollowTheState : Prop :=
  ∀ (p : Params) (m : Fwc p),
    (m.req_ready = true ↔ m.STATE = FsmState.IDLE.code) ∧ (m.rsp_valid = true ↔ m.STATE = FsmState.DONE.code) ∧
    (m.busy = true ↔ m.STATE ≠ FsmState.IDLE.code ∧ m.STATE ≠ FsmState.DONE.code) ∧
    (m.rsp_valid = true → m.rsp_result = m.RESULT) ∧ [m.req_ready, m.rsp_valid, m.busy].count true = 1
end

