-- ==== Sys2Proof/Laws/State.lean ====
section
/-! SUPPORT. One lemma per field per update of the FWC, each true by rfl, so that no later proof unfolds an update. -/

namespace Sys2Proof.Machine

variable {p : Params} (m : Fwc p)

/-! ### goto -/

@[simp] theorem Fwc.goto_STATE (f : FsmState) : (m.goto f).STATE = f.code := rfl
@[simp] theorem Fwc.goto_ADDR (f : FsmState) : (m.goto f).ADDR = m.ADDR := rfl
@[simp] theorem Fwc.goto_DATA (f : FsmState) : (m.goto f).DATA = m.DATA := rfl
@[simp] theorem Fwc.goto_T0 (f : FsmState) : (m.goto f).T0 = m.T0 := rfl
@[simp] theorem Fwc.goto_SR (f : FsmState) : (m.goto f).SR = m.SR := rfl
@[simp] theorem Fwc.goto_RESULT (f : FsmState) : (m.goto f).RESULT = m.RESULT := rfl
@[simp] theorem Fwc.goto_pins (f : FsmState) : (m.goto f).pins = m.pins := rfl
@[simp] theorem Fwc.goto_env (f : FsmState) : (m.goto f).env = m.env := rfl
@[simp] theorem Fwc.goto_draws (f : FsmState) : (m.goto f).draws = m.draws := rfl
@[simp] theorem Fwc.goto_trace (f : FsmState) : (m.goto f).trace = m.trace := rfl

/-! ### emit -/

@[simp] theorem Fwc.emit_STATE (e : Event p.A p.W) : (m.emit e).STATE = m.STATE := rfl
@[simp] theorem Fwc.emit_ADDR (e : Event p.A p.W) : (m.emit e).ADDR = m.ADDR := rfl
@[simp] theorem Fwc.emit_DATA (e : Event p.A p.W) : (m.emit e).DATA = m.DATA := rfl
@[simp] theorem Fwc.emit_T0 (e : Event p.A p.W) : (m.emit e).T0 = m.T0 := rfl
@[simp] theorem Fwc.emit_SR (e : Event p.A p.W) : (m.emit e).SR = m.SR := rfl
@[simp] theorem Fwc.emit_RESULT (e : Event p.A p.W) : (m.emit e).RESULT = m.RESULT := rfl
@[simp] theorem Fwc.emit_pins (e : Event p.A p.W) : (m.emit e).pins = m.pins := rfl
@[simp] theorem Fwc.emit_env (e : Event p.A p.W) : (m.emit e).env = m.env := rfl
@[simp] theorem Fwc.emit_draws (e : Event p.A p.W) : (m.emit e).draws = m.draws := rfl
@[simp] theorem Fwc.emit_trace (e : Event p.A p.W) : (m.emit e).trace = e :: m.trace := rfl

/-! ### latch -/

@[simp] theorem Fwc.latch_STATE (q : Req p.A p.W) : (m.latch q).STATE = m.STATE := rfl
@[simp] theorem Fwc.latch_ADDR (q : Req p.A p.W) : (m.latch q).ADDR = q.address := rfl
@[simp] theorem Fwc.latch_DATA (q : Req p.A p.W) : (m.latch q).DATA = q.value := rfl
@[simp] theorem Fwc.latch_T0 (q : Req p.A p.W) : (m.latch q).T0 = m.T0 := rfl
@[simp] theorem Fwc.latch_SR (q : Req p.A p.W) : (m.latch q).SR = m.SR := rfl
@[simp] theorem Fwc.latch_RESULT (q : Req p.A p.W) : (m.latch q).RESULT = m.RESULT := rfl
@[simp] theorem Fwc.latch_pins (q : Req p.A p.W) : (m.latch q).pins = m.pins := rfl
@[simp] theorem Fwc.latch_env (q : Req p.A p.W) : (m.latch q).env = m.env := rfl
@[simp] theorem Fwc.latch_draws (q : Req p.A p.W) : (m.latch q).draws = m.draws := rfl
@[simp] theorem Fwc.latch_trace (q : Req p.A p.W) : (m.latch q).trace = m.trace := rfl

/-! ### setT0 -/

@[simp] theorem Fwc.setT0_STATE (t : Time) : (m.setT0 t).STATE = m.STATE := rfl
@[simp] theorem Fwc.setT0_ADDR (t : Time) : (m.setT0 t).ADDR = m.ADDR := rfl
@[simp] theorem Fwc.setT0_DATA (t : Time) : (m.setT0 t).DATA = m.DATA := rfl
@[simp] theorem Fwc.setT0_T0 (t : Time) : (m.setT0 t).T0 = t := rfl
@[simp] theorem Fwc.setT0_SR (t : Time) : (m.setT0 t).SR = m.SR := rfl
@[simp] theorem Fwc.setT0_RESULT (t : Time) : (m.setT0 t).RESULT = m.RESULT := rfl
@[simp] theorem Fwc.setT0_pins (t : Time) : (m.setT0 t).pins = m.pins := rfl
@[simp] theorem Fwc.setT0_env (t : Time) : (m.setT0 t).env = m.env := rfl
@[simp] theorem Fwc.setT0_draws (t : Time) : (m.setT0 t).draws = m.draws := rfl
@[simp] theorem Fwc.setT0_trace (t : Time) : (m.setT0 t).trace = m.trace := rfl

/-! ### setSR -/

@[simp] theorem Fwc.setSR_STATE (sr : Word p.W) : (m.setSR sr).STATE = m.STATE := rfl
@[simp] theorem Fwc.setSR_ADDR (sr : Word p.W) : (m.setSR sr).ADDR = m.ADDR := rfl
@[simp] theorem Fwc.setSR_DATA (sr : Word p.W) : (m.setSR sr).DATA = m.DATA := rfl
@[simp] theorem Fwc.setSR_T0 (sr : Word p.W) : (m.setSR sr).T0 = m.T0 := rfl
@[simp] theorem Fwc.setSR_SR (sr : Word p.W) : (m.setSR sr).SR = sr := rfl
@[simp] theorem Fwc.setSR_RESULT (sr : Word p.W) : (m.setSR sr).RESULT = m.RESULT := rfl
@[simp] theorem Fwc.setSR_pins (sr : Word p.W) : (m.setSR sr).pins = m.pins := rfl
@[simp] theorem Fwc.setSR_env (sr : Word p.W) : (m.setSR sr).env = m.env := rfl
@[simp] theorem Fwc.setSR_draws (sr : Word p.W) : (m.setSR sr).draws = m.draws := rfl
@[simp] theorem Fwc.setSR_trace (sr : Word p.W) : (m.setSR sr).trace = m.trace := rfl

/-! ### select -/

@[simp] theorem Fwc.select_STATE (r : OpResult) (f : FsmState) : (m.select r f).STATE = f.code := rfl
@[simp] theorem Fwc.select_ADDR (r : OpResult) (f : FsmState) : (m.select r f).ADDR = m.ADDR := rfl
@[simp] theorem Fwc.select_DATA (r : OpResult) (f : FsmState) : (m.select r f).DATA = m.DATA := rfl
@[simp] theorem Fwc.select_T0 (r : OpResult) (f : FsmState) : (m.select r f).T0 = m.T0 := rfl
@[simp] theorem Fwc.select_SR (r : OpResult) (f : FsmState) : (m.select r f).SR = m.SR := rfl
@[simp] theorem Fwc.select_RESULT (r : OpResult) (f : FsmState) : (m.select r f).RESULT = r.code := rfl
@[simp] theorem Fwc.select_pins (r : OpResult) (f : FsmState) : (m.select r f).pins = m.pins := rfl
@[simp] theorem Fwc.select_env (r : OpResult) (f : FsmState) : (m.select r f).env = m.env := rfl
@[simp] theorem Fwc.select_draws (r : OpResult) (f : FsmState) : (m.select r f).draws = m.draws := rfl
@[simp] theorem Fwc.select_trace (r : OpResult) (f : FsmState) : (m.select r f).trace = m.trace := rfl

/-! ### sample -/

@[simp] theorem Fwc.sample_STATE : (m.sample).STATE = m.STATE := rfl
@[simp] theorem Fwc.sample_ADDR : (m.sample).ADDR = m.ADDR := rfl
@[simp] theorem Fwc.sample_DATA : (m.sample).DATA = m.DATA := rfl
@[simp] theorem Fwc.sample_T0 : (m.sample).T0 = m.T0 := rfl
@[simp] theorem Fwc.sample_SR : (m.sample).SR = m.SR := rfl
@[simp] theorem Fwc.sample_RESULT : (m.sample).RESULT = m.RESULT := rfl
@[simp] theorem Fwc.sample_pins : (m.sample).pins = m.nextInputs := rfl
@[simp] theorem Fwc.sample_env : (m.sample).env = m.env.tail := rfl
@[simp] theorem Fwc.sample_draws : (m.sample).draws = m.draws + 1 := rfl
@[simp] theorem Fwc.sample_trace : (m.sample).trace = m.trace := rfl

/-! ### resetStep -/

@[simp] theorem Fwc.resetStep_STATE : (m.resetStep).STATE = FsmState.IDLE.code := rfl
@[simp] theorem Fwc.resetStep_pins : (m.resetStep).pins = m.pins := rfl
@[simp] theorem Fwc.resetStep_env : (m.resetStep).env = m.env := rfl
@[simp] theorem Fwc.resetStep_draws : (m.resetStep).draws = m.draws := rfl
@[simp] theorem Fwc.resetStep_trace : (m.resetStep).trace = m.trace := rfl

/-! ### The ports -/

theorem Fwc.nextInputs_cons {x : Inputs p} {rest : List (Inputs p)} (h : m.env = x :: rest) :
    m.nextInputs = x := by
  simp [Fwc.nextInputs, h]

theorem Fwc.nextInputs_nil (h : m.env = []) : m.nextInputs = freeInputs p m.draws := by
  simp [Fwc.nextInputs, h]

theorem Fwc.req_ready_iff : m.req_ready = true ↔ m.STATE = FsmState.IDLE.code := by
  simp [Fwc.req_ready]

theorem Fwc.rsp_valid_iff : m.rsp_valid = true ↔ m.STATE = FsmState.DONE.code := by
  simp [Fwc.rsp_valid]

theorem Fwc.rsp_result_of_valid (h : m.rsp_valid = true) : m.rsp_result = m.RESULT := by
  simp [Fwc.rsp_result, h]

/-! ### The machine -/

@[simp] theorem State.sample_params (s : State) : s.sample.params = s.params := rfl

@[simp] theorem State.sample_mk : (State.mk p m).sample = ⟨p, m.sample⟩ := rfl

end Sys2Proof.Machine
end

