-- ==== Sys2Proof/Laws/Ops.lean ====
section
/-! SUPPORT. What each shared operation can do, said once: when it answers a next state, how it got there. -/

namespace Sys2Proof.Machine

/-! ### Codes -/

theorem stateCode_le (f : FsmState) : f.code.toNat ≤ 8 := by cases f <;> decide

@[simp] theorem stateCode_inj {f g : FsmState} : f.code = g.code ↔ f = g := by
  cases f <;> cases g <;> decide

theorem resultCode_le (r : OpResult) : r.code.toNat ≤ 6 := by cases r <;> decide

@[simp] theorem resultCode_inj {r q : OpResult} : r.code = q.code ↔ r = q := by
  cases r <;> cases q <;> decide

@[simp] theorem resultCode_ne_reserved (r : OpResult) : r.code ≠ reservedResult := by cases r <;> decide

/-! ### Operations -/

variable {p : Params} {m m' : Fwc p}

theorem lift_eq_next {o : Out (Fwc p)} {t : State} : lift o = .next t ↔ ∃ n, o = .next n ∧ t = ⟨p, n⟩ := by
  cases o <;> simp [lift, eq_comm]

@[simp] theorem lift_eq_next_mk {o : Out (Fwc p)} {n : Fwc p} : lift o = .next ⟨p, n⟩ ↔ o = .next n := by
  cases o <;> simp [lift]

@[simp] theorem lift_next : lift (.next m) = .next ⟨p, m⟩ := rfl

theorem lift_ne_refused {o : Out (Fwc p)} (h : ∀ r, o ≠ .refused r) (r : Refusal) : lift o ≠ .refused r := by
  cases o with
  | next n => simp [lift]
  | fault f => simp [lift]
  | refused q => exact absurd rfl (h q)

/-- `BusRead` goes on exactly when the bus answers, with the answered word and its line in the trace. -/
theorem busRead_eq_next {a : Address p.A} {k : Word p.W → Fwc p → Out (Fwc p)} :
    m.busRead a k = .next m' ↔ ∃ v, m.pins.bus_rdata = some v ∧ k v (m.emit (.busRead a v)) = .next m' := by
  cases h : m.pins.bus_rdata <;> simp [Fwc.busRead, h]

/-- `BusWrite` goes on exactly when the transaction completes, with its line in the trace. -/
theorem busWrite_eq_next {a : Address p.A} {v : Word p.W} {k : Fwc p → Out (Fwc p)} :
    m.busWrite a v k = .next m' ↔ m.pins.bus_rdata.isSome ∧ k (m.emit (.busWrite a v)) = .next m' := by
  cases h : m.pins.bus_rdata <;> simp [Fwc.busWrite, h]

/-- `TimeRead` goes on exactly when the time port answers, with the answered time and its line in the trace. -/
theorem timeRead_eq_next {k : Time → Fwc p → Out (Fwc p)} :
    m.timeRead k = .next m' ↔ ∃ t, m.pins.time_now = some t ∧ k t (m.emit (.time t)) = .next m' := by
  cases h : m.pins.time_now <;> simp [Fwc.timeRead, h]

@[simp] theorem busRead_some {a : Address p.A} {k : Word p.W → Fwc p → Out (Fwc p)} {v : Word p.W}
    (h : m.pins.bus_rdata = some v) : m.busRead a k = k v (m.emit (.busRead a v)) := by
  simp [Fwc.busRead, h]

@[simp] theorem busRead_none {a : Address p.A} {k : Word p.W → Fwc p → Out (Fwc p)}
    (h : m.pins.bus_rdata = none) : m.busRead a k = .fault .busNeverCompletes := by
  simp [Fwc.busRead, h]

@[simp] theorem busWrite_some {a : Address p.A} {v : Word p.W} {k : Fwc p → Out (Fwc p)}
    (h : m.pins.bus_rdata.isSome) : m.busWrite a v k = k (m.emit (.busWrite a v)) := by
  obtain ⟨w, hw⟩ := Option.isSome_iff_exists.mp h
  simp [Fwc.busWrite, hw]

@[simp] theorem busWrite_none {a : Address p.A} {v : Word p.W} {k : Fwc p → Out (Fwc p)}
    (h : m.pins.bus_rdata = none) : m.busWrite a v k = .fault .busNeverCompletes := by
  simp [Fwc.busWrite, h]

@[simp] theorem timeRead_some {k : Time → Fwc p → Out (Fwc p)} {t : Time}
    (h : m.pins.time_now = some t) : m.timeRead k = k t (m.emit (.time t)) := by
  simp [Fwc.timeRead, h]

@[simp] theorem timeRead_none {k : Time → Fwc p → Out (Fwc p)}
    (h : m.pins.time_now = none) : m.timeRead k = .fault .timeNeverCompletes := by
  simp [Fwc.timeRead, h]

/-- A masked word is non-zero for a one-bit mask exactly when that bit is set. -/
theorem anySet_bit {W : Nat} (sr : Word W) {pos : Nat} (h : pos < W) : anySet sr (bit W pos) = sr.getLsbD pos := by
  have hb : bit W pos = BitVec.twoPow W pos := by simp [bit, BitVec.twoPow_eq]
  rw [anySet, hb, BitVec.and_twoPow]
  cases hs : sr.getLsbD pos with
  | false => simp
  | true =>
    have : BitVec.twoPow W pos ≠ 0#W := fun h0 => by
      have := congrArg (·.getLsbD pos) h0
      simp [h] at this
    simpa using this

/-- A word shares a bit with the union of two masks exactly when it shares one with either. -/
theorem anySet_or {W : Nat} (sr a b : Word W) : anySet sr (a ||| b) = (anySet sr a || anySet sr b) := by
  have key : sr &&& (a ||| b) = 0#W ↔ sr &&& a = 0#W ∧ sr &&& b = 0#W := by
    rw [show sr &&& (a ||| b) = sr &&& a ||| sr &&& b by ext i; simp [Bool.and_or_distrib_left], BitVec.or_eq_zero_iff]
  rw [Bool.eq_iff_iff]
  simp only [anySet, bne_iff_ne, ne_eq, Bool.or_eq_true, key]
  tauto


end Sys2Proof.Machine
end

