-- ==== Sys2Proof/Laws/Exec.lean ====
section
/-! SUPPORT. One inversion lemma per operation: when its meaning answers a next state, what that state is. -/

namespace Sys2Proof.Machine

variable {p : Params} {m m' : Fwc p} {t : State}

theorem execAccept_next (h : execAccept ⟨p, m⟩ = .next t) :
    (m.STATE = FsmState.IDLE.code ∧ m.pins.req_valid = true ∧
      t = ⟨p, ((m.emit (.request ⟨m.pins.req_addr, m.pins.req_value⟩)).latch
        ⟨m.pins.req_addr, m.pins.req_value⟩).goto .TSTART⟩) ∨
    (¬(m.STATE = FsmState.IDLE.code ∧ m.pins.req_valid = true) ∧ t = ⟨p, m⟩) := by
  simp only [execAccept, Bool.and_eq_true, Fwc.req_ready_iff] at h
  split at h
  · next hc =>
      simp only [lift_next, Host.Outcome.next.injEq] at h
      exact .inl ⟨hc.1, hc.2, h.symm⟩
  · next hc =>
      simp only [Host.Outcome.next.injEq] at h
      exact .inr ⟨hc, h.symm⟩

theorem execRespond_next (h : execRespond ⟨p, m⟩ = .next t) :
    (m.STATE = FsmState.DONE.code ∧ m.pins.rsp_ready = true ∧ m.RESULT ≠ reservedResult ∧
      t = ⟨p, (m.emit (.response m.RESULT)).goto .IDLE⟩) ∨
    (¬(m.STATE = FsmState.DONE.code ∧ m.pins.rsp_ready = true) ∧ t = ⟨p, m⟩) := by
  simp only [execRespond, Bool.and_eq_true, Fwc.rsp_valid_iff] at h
  split at h
  · next hc =>
      rw [Fwc.rsp_result_of_valid m ((Fwc.rsp_valid_iff m).mpr hc.1)] at h
      split at h
      · cases h
      · next hr =>
          simp only [lift_next, Host.Outcome.next.injEq] at h
          exact .inl ⟨hc.1, hc.2, hr, h.symm⟩
  · next hc =>
      simp only [Host.Outcome.next.injEq] at h
      exact .inr ⟨hc, h.symm⟩

theorem execTimeStart_next (h : execTimeStart ⟨p, m⟩ = .next t) :
    ∃ x, m.pins.time_now = some x ∧ t = ⟨p, ((m.emit (.time x)).setT0 x).goto .CMD⟩ := by
  obtain ⟨n, hn, rfl⟩ := lift_eq_next.mp h
  obtain ⟨x, hx, hk⟩ := timeRead_eq_next.mp hn
  simp only [Host.Outcome.next.injEq] at hk
  exact ⟨x, hx, by rw [hk]⟩

theorem execCmdProgram_next (h : execCmdProgram ⟨p, m⟩ = .next t) :
    m.pins.bus_rdata.isSome ∧ t = ⟨p, (m.emit (.busWrite (cmdRegAddr p) (programCmd p))).goto .DATA⟩ := by
  obtain ⟨n, hn, rfl⟩ := lift_eq_next.mp h
  obtain ⟨hb, hk⟩ := busWrite_eq_next.mp hn
  simp only [Host.Outcome.next.injEq] at hk
  exact ⟨hb, by rw [hk]⟩

theorem execDataWrite_next (h : execDataWrite ⟨p, m⟩ = .next t) :
    m.pins.bus_rdata.isSome ∧ t = ⟨p, (m.emit (.busWrite m.ADDR m.DATA)).goto .POLL⟩ := by
  obtain ⟨n, hn, rfl⟩ := lift_eq_next.mp h
  obtain ⟨hb, hk⟩ := busWrite_eq_next.mp hn
  simp only [Host.Outcome.next.injEq] at hk
  exact ⟨hb, by rw [hk]⟩

theorem execStatusRead_next (h : execStatusRead ⟨p, m⟩ = .next t) :
    ∃ sr, m.pins.bus_rdata = some sr ∧
      t = ⟨p, statusBranch sr ((m.emit (.busRead (statusRegAddr p) sr)).setSR sr)⟩ := by
  obtain ⟨n, hn, rfl⟩ := lift_eq_next.mp h
  obtain ⟨sr, hs, hk⟩ := busRead_eq_next.mp hn
  simp only [Host.Outcome.next.injEq] at hk
  exact ⟨sr, hs, by rw [hk]⟩

theorem execTimeCheck_next (h : execTimeCheck ⟨p, m⟩ = .next t) :
    ∃ x, m.pins.time_now = some x ∧ t = ⟨p, timeBranch x (m.emit (.time x))⟩ := by
  obtain ⟨n, hn, rfl⟩ := lift_eq_next.mp h
  obtain ⟨x, hx, hk⟩ := timeRead_eq_next.mp hn
  simp only [Host.Outcome.next.injEq] at hk
  exact ⟨x, hx, by rw [hk]⟩

theorem execCmdReset_next (h : execCmdReset ⟨p, m⟩ = .next t) :
    m.pins.bus_rdata.isSome ∧ t = ⟨p, (m.emit (.busWrite (cmdRegAddr p) (resetCmd p))).goto .DONE⟩ := by
  obtain ⟨n, hn, rfl⟩ := lift_eq_next.mp h
  obtain ⟨hb, hk⟩ := busWrite_eq_next.mp hn
  simp only [Host.Outcome.next.injEq] at hk
  exact ⟨hb, by rw [hk]⟩

theorem execReadback_next (h : execReadback ⟨p, m⟩ = .next t) :
    ∃ rb, m.pins.bus_rdata = some rb ∧
      t = ⟨p, (m.emit (.busRead m.ADDR rb)).select (if rb = m.DATA then .Success else .ReadBackError) .DONE⟩ := by
  obtain ⟨n, hn, rfl⟩ := lift_eq_next.mp h
  obtain ⟨rb, hr, hk⟩ := busRead_eq_next.mp hn
  simp only [Host.Outcome.next.injEq] at hk
  exact ⟨rb, hr, by rw [← hk]; rfl⟩

/-- The three ways out of a status read (R140). -/
theorem statusBranch_cases (sr : Word p.W) (n : Fwc p) :
    (isReady p sr = false ∧ statusBranch sr n = n.goto .TCHK) ∨
    (isReady p sr = true ∧ classify p sr = none ∧ statusBranch sr n = n.goto .RB) ∨
    (∃ r, isReady p sr = true ∧ classify p sr = some r ∧ statusBranch sr n = n.select r .RST) := by
  unfold statusBranch
  cases hr : isReady p sr with
  | false => exact .inl ⟨rfl, by simp⟩
  | true =>
    cases hc : classify p sr with
    | none => exact .inr (.inl ⟨rfl, rfl, by simp⟩)
    | some r => exact .inr (.inr ⟨r, rfl, rfl, by simp⟩)

/-- The two ways out of a time check (R145). -/
theorem timeBranch_cases (x : Time) (n : Fwc p) :
    (timedOut p n.T0 x = false ∧ timeBranch x n = n.goto .POLL) ∨
    (timedOut p n.T0 x = true ∧ timeBranch x n = n.select .TimeoutError .DONE) := by
  unfold timeBranch
  cases h : timedOut p n.T0 x <;> simp

/-- A meaning answers with a machine of the same parameters. -/
theorem exec_next_params (i : Instr) (h : exec i ⟨p, m⟩ = .next t) : ∃ n : Fwc p, t = ⟨p, n⟩ := by
  cases i with
  | accept => rcases execAccept_next h with ⟨_, _, rfl⟩ | ⟨_, rfl⟩ <;> exact ⟨_, rfl⟩
  | respond => rcases execRespond_next h with ⟨_, _, _, rfl⟩ | ⟨_, rfl⟩ <;> exact ⟨_, rfl⟩
  | timeStart => obtain ⟨_, _, rfl⟩ := execTimeStart_next h; exact ⟨_, rfl⟩
  | timeCheck => obtain ⟨_, _, rfl⟩ := execTimeCheck_next h; exact ⟨_, rfl⟩
  | cmdProgram => obtain ⟨_, rfl⟩ := execCmdProgram_next h; exact ⟨_, rfl⟩
  | dataWrite => obtain ⟨_, rfl⟩ := execDataWrite_next h; exact ⟨_, rfl⟩
  | cmdReset => obtain ⟨_, rfl⟩ := execCmdReset_next h; exact ⟨_, rfl⟩
  | statusRead => obtain ⟨_, _, rfl⟩ := execStatusRead_next h; exact ⟨_, rfl⟩
  | readback => obtain ⟨_, _, rfl⟩ := execReadback_next h; exact ⟨_, rfl⟩

/-- No meaning answers with a refusal. -/
theorem exec_ne_refused (i : Instr) (r : Refusal) : exec i ⟨p, m⟩ ≠ .refused r := by
  have busR (a : Address p.A) (k) (hk : ∀ v n, ∃ n', k v n = Host.Outcome.next n') :
      ∀ r, m.busRead a k ≠ .refused r := by
    intro r
    cases hb : m.pins.bus_rdata with
    | none => simp [hb]
    | some v => obtain ⟨n', hn⟩ := hk v (m.emit (.busRead a v)); simp [busRead_some hb, hn]
  have busW (a : Address p.A) (v) (k) (hk : ∀ n, ∃ n', k n = Host.Outcome.next n') :
      ∀ r, m.busWrite a v k ≠ .refused r := by
    intro r
    cases hb : m.pins.bus_rdata with
    | none => simp [hb]
    | some w => obtain ⟨n', hn⟩ := hk (m.emit (.busWrite a v)); simp [Fwc.busWrite, hb, hn]
  have time (k) (hk : ∀ v n, ∃ n', k v n = Host.Outcome.next n') : ∀ r, m.timeRead k ≠ .refused r := by
    intro r
    cases hb : m.pins.time_now with
    | none => simp [hb]
    | some v => obtain ⟨n', hn⟩ := hk v (m.emit (.time v)); simp [timeRead_some hb, hn]
  cases i with
  | accept => simp only [exec, execAccept]; split <;> simp
  | respond => simp only [exec, execRespond]; split; (split <;> simp); simp
  | timeStart => exact lift_ne_refused (time _ fun _ _ => ⟨_, rfl⟩) r
  | timeCheck => exact lift_ne_refused (time _ fun _ _ => ⟨_, rfl⟩) r
  | cmdProgram => exact lift_ne_refused (busW _ _ _ fun _ => ⟨_, rfl⟩) r
  | dataWrite => exact lift_ne_refused (busW _ _ _ fun _ => ⟨_, rfl⟩) r
  | cmdReset => exact lift_ne_refused (busW _ _ _ fun _ => ⟨_, rfl⟩) r
  | statusRead => exact lift_ne_refused (busR _ _ fun _ _ => ⟨_, rfl⟩) r
  | readback => exact lift_ne_refused (busR _ _ fun _ _ => ⟨_, rfl⟩) r

end Sys2Proof.Machine
end

