-- ==== Sys2Proof/Laws/PerInstr.lean ====
section
/-! SUPPORT. Per-instruction families. EncodeDecode: the code an operation encodes to selects that operation, and is its
row's "match" under the mask 0xF (30_encoding.md R85). -/

namespace Sys2Proof.Laws.EncodeDecode

/-- The operation's code decodes to it. -/
def Statement (i : Instr) : Prop := decode (encode i) = .ok i

theorem accept : Statement .accept := rfl
theorem timeStart : Statement .timeStart := rfl
theorem cmdProgram : Statement .cmdProgram := rfl
theorem dataWrite : Statement .dataWrite := rfl
theorem statusRead : Statement .statusRead := rfl
theorem timeCheck : Statement .timeCheck := rfl
theorem cmdReset : Statement .cmdReset := rfl
theorem readback : Statement .readback := rfl
theorem respond : Statement .respond := rfl

end Sys2Proof.Laws.EncodeDecode
end

