-- ==== Sys2Proof/Laws/Step.lean ====
section
/-! SUPPORT. What one step can do, said once; and the decoding of `STATE`. -/

namespace Sys2Proof.Machine

variable {p : Params} {m : Fwc p}

/-- A code decodes to an operation exactly when it is that operation's code. -/
theorem decode_eq_ok {c : StateCode} {i : Instr} : decode c = .ok i ↔ c = i.performedIn.code := by
  cases i <;> revert c <;> decide

/-- A step that answers a next state is a reset step, or the operation that `STATE` selects, both on the sampled
inputs. -/
theorem step_cases {t : State} (h : step ⟨p, m⟩ = .next t) :
    p.WellFormed ∧
    ((m.nextInputs.rst = true ∧ t = ⟨p, m.sample.resetStep⟩) ∨
     (m.nextInputs.rst = false ∧ ∃ i : Instr, m.STATE = i.performedIn.code ∧ exec i ⟨p, m.sample⟩ = .next t)) := by
  unfold step at h
  split at h
  · next hw =>
      refine ⟨hw, ?_⟩
      rw [State.sample_mk, runSampled] at h
      cases hr : m.nextInputs.rst with
      | true =>
        rw [if_pos (by simpa using hr), Host.Outcome.next.injEq] at h
        exact .inl ⟨rfl, h.symm⟩
      | false =>
        rw [if_neg (by simpa using hr)] at h
        split at h
        · next i hi => exact .inr ⟨rfl, i, decode_eq_ok.mp hi, h⟩
        · cases h
  · cases h

end Sys2Proof.Machine
end

