-- ==== Sys2Proof/Tests/Slice0.lean ====
section
/-! SUPPORT. Tests whose expected results are the spec's own vectors (95_test_vectors.md) and tables, the smoke test of the
well-formedness checks, and for every statement with hypotheses a concrete state that meets them. -/

namespace Sys2Proof.Tests

open Sys2Proof Sys2Proof.Machine

/-- The parameter values R5 takes. -/
abbrev P : Params := Params.taken

/-- An FWC in state `f` that works on `WRITE 0x00001000, 0xBEEF`, with `RESULT` at `r` and the input levels `x`. -/
def fwc (f : FsmState) (x : Inputs P) (r : OpResult := .Success) : Fwc P :=
  { Fwc.reset P with STATE := f.code, ADDR := 0x1000, DATA := 0xBEEF, RESULT := r.code, pins := x, env := [x] }

/-- Levels of one step: a request `WRITE 0x00001000, 0xBEEF`, the response taken, the bus answering `v`, the time `t`. -/
def levels (v : Word 16) (t : Time) : Inputs P where
  rst       := false
  req_valid := true
  req_addr  := 0x1000
  req_value := 0xBEEF
  rsp_ready := true
  bus_rdata := some v
  time_now  := some t

/-- Levels at which the host neither offers a request nor takes a response. -/
def hostQuiet : Inputs P := { levels 0 0 with req_valid := false, rsp_ready := false }

/-- Levels at which `rst` is 1. -/
def resetting : Inputs P := { levels 0 0 with rst := true }

/-- Levels at which no transaction completes. -/
def hanging : Inputs P := { levels 0 0 with bus_rdata := none, time_now := none }

/-- What a test reads of an outcome: `STATE`, `RESULT` and the newest transaction packed as a number (`REQ`, `t`, `TX` or
`RSP`). -/
def seen (o : Host.Outcome State Fault Refusal) : Option (Nat × Nat × Option Nat) :=
  match o with
  | .next s => some (s.fwc.STATE.toNat, s.fwc.RESULT.toNat, s.fwc.trace.head?.map fun
      | .request q  => (packReq q).toNat
      | .time t     => t.toNat
      | .bus tx     => (packTx tx).toNat
      | .response r => r.toNat)
  | _ => none

/-! ### Well-formed parameters: every check refuses a term that breaks it -/

theorem test_wf_taken : P.WellFormed := by decide
theorem test_wf_minimal :
    { P with W := 8, A := 1, cmdRegAddr := 1, programCmd := 0xFF, timeoutUs := 0xFFFFFFFF }.WellFormed := by decide
theorem test_wf_word_too_narrow :
    ¬ { P with W := 7, posReady := 0, programCmd := 0, resetCmd := 0 }.WellFormed := by decide
theorem test_wf_no_address : ¬ { P with A := 0 }.WellFormed := by decide
theorem test_wf_positions_clash : ¬ { P with posReserved := 7 }.WellFormed := by decide
theorem test_wf_position_too_high : ¬ { P with posReady := 16 }.WellFormed := by decide
theorem test_wf_command_register_outside : ¬ { P with cmdRegAddr := 2 ^ 32 }.WellFormed := by decide
theorem test_wf_status_register_outside : ¬ { P with statusRegAddr := 2 ^ 32 }.WellFormed := by decide
theorem test_wf_program_command_too_wide : ¬ { P with programCmd := 2 ^ 16 }.WellFormed := by decide
theorem test_wf_reset_command_too_wide : ¬ { P with resetCmd := 2 ^ 16 }.WellFormed := by decide
theorem test_wf_timeout_too_wide : ¬ { P with timeoutUs := 2 ^ 32 }.WellFormed := by decide

/-! ### Encodings: the codes of 30_encoding.md R85, written out bit by bit -/

theorem test_decode_words :
    decode 0b0000 = .ok .accept ∧ decode 0b0001 = .ok .timeStart ∧ decode 0b0010 = .ok .cmdProgram ∧
    decode 0b0011 = .ok .dataWrite ∧ decode 0b0100 = .ok .statusRead ∧ decode 0b0101 = .ok .timeCheck ∧
    decode 0b0110 = .ok .cmdReset ∧ decode 0b0111 = .ok .readback ∧ decode 0b1000 = .ok .respond := by decide
theorem test_decode_unused :
    decode 0b1001 = .error (.unusedStateCode 9) ∧ decode 0b1111 = .error (.unusedStateCode 15) := by decide
/-- V-A1 and V-A3: the packed request. -/
theorem test_pack_request : (packReq (⟨0x1000, 0xBEEF⟩ : Req 32 16)).toNat = 0x00001000BEEF ∧
    (packReq (⟨0xFFFFFFFF, 0xFFFF⟩ : Req 32 16)).toNat = 0xFFFFFFFFFFFF := by decide
/-- V-S4, and P1's read-back line: the packed transactions. -/
theorem test_pack_transaction : (packTx (⟨.write, 0x1000, 0xBEEF⟩ : BusTx 32 16)).toNat = 0x100001000BEEF ∧
    unpackTx (0x000001000BEEF#49 : BitVec (1 + 32 + 16)) = (⟨.read, 0x1000, 0xBEEF⟩ : BusTx 32 16) := by decide

/-! ### The next operation from a table row's word, as the host places it -/

theorem test_withFetchWord_runs_the_row :
    [0, 1, 2, 3, 4, 5, 6, 7, 8].map (fun w => (seen (step (State.reset.withFetchWord 8 w))).map (·.1)) =
      [1, 2, 3, 4, 5, 4, 8, 8, 0].map some := by decide

/-! ### One step of each operation (95_test_vectors.md section 2) -/

/-- V-A1. -/
theorem test_accept : seen (step ⟨P, fwc .IDLE (levels 0 0)⟩) = some (1, 0, some 0x00001000BEEF) := by decide
/-- V-P4. -/
theorem test_accept_no_request : seen (step ⟨P, fwc .IDLE hostQuiet⟩) = some (0, 0, none) := by decide
/-- V-S1. -/
theorem test_time_start : seen (step ⟨P, fwc .TSTART (levels 0 0xFFFFFFFF)⟩) = some (2, 0, some 0xFFFFFFFF) := by decide
/-- V-S3. -/
theorem test_cmd_program : seen (step ⟨P, fwc .CMD (levels 0 0)⟩) = some (3, 0, some 0x1000000000040) := by decide
/-- V-S4. -/
theorem test_data_write : seen (step ⟨P, fwc .DATA (levels 0 0)⟩) = some (4, 0, some 0x100001000BEEF) := by decide
/-- V-D3: every flag but Ready. -/
theorem test_status_not_ready : seen (step ⟨P, fwc .POLL (levels 0xFF7F 0)⟩) = some (5, 0, some 0x000000000FF7F) := by decide
/-- R140's example: `R 0x00000000 -> 0x0090` selects ProgramError and goes to RST. -/
theorem test_status_error : seen (step ⟨P, fwc .POLL (levels 0x0090 0)⟩) = some (6, 2, some 0x0000000000090) := by decide
/-- V-T3. -/
theorem test_time_check_out : seen (step ⟨P, fwc .TCHK (levels 0 5000)⟩) = some (8, 6, some 5000) := by decide
/-- V-T2. -/
theorem test_time_check_in : seen (step ⟨P, fwc .TCHK (levels 0 4999)⟩) = some (4, 0, some 4999) := by decide
/-- V-C2. -/
theorem test_cmd_reset : seen (step ⟨P, fwc .RST (levels 0 0) .UnknownProgramError⟩) =
    some (8, 4, some 0x10000000000FF) := by decide
/-- V-R1. -/
theorem test_readback_equal : seen (step ⟨P, fwc .RB (levels 0xBEEF 0)⟩) = some (8, 0, some 0x000001000BEEF) := by decide
/-- V-R3: bit 15 differs. -/
theorem test_readback_differs : seen (step ⟨P, fwc .RB (levels 0x3EEF 0)⟩) = some (8, 5, some 0x0000010003EEF) := by decide
/-- V-P2. -/
theorem test_respond : seen (step ⟨P, fwc .DONE (levels 0 0) .TimeoutError⟩) = some (0, 6, some 0b110) := by decide
/-- V-P1. -/
theorem test_respond_held : seen (step ⟨P, fwc .DONE hostQuiet .TimeoutError⟩) = some (8, 6, none) ∧
    (fwc .DONE hostQuiet .TimeoutError).rsp_valid = true ∧ (fwc .DONE hostQuiet .TimeoutError).rsp_result = 0b110 := by
  decide

/-- V-P3: reset in POLL, IDLE and no transaction (`RESULT` is not looked at: it is a free value). -/
theorem test_reset_in_poll : (match step ⟨P, fwc .POLL resetting⟩ with
    | .next s => s.fwc.STATE = 0 ∧ s.fwc.trace = []
    | _ => False) := ⟨rfl, rfl⟩

/-! ### Status words and times -/

/-- V-D4 to V-D21, with UNNAMED_BITS_ARE_ERRORS false. -/
theorem test_classify :
    ([0x0080, 0x0088, 0x0090, 0x0082, 0x00C0, 0x00A0, 0x0084, 0x0081, 0x0098, 0x008A, 0x0092, 0x00FF, 0x00E5, 0x0180,
      0xFF80, 0x8090, 0x00C2, 0x00B0] : List (Word 16)).map (fun sr => ((classify P sr).map (·.code.toNat)).getD 0) =
      [0, 1, 2, 3, 4, 4, 4, 4, 1, 1, 2, 1, 4, 0, 0, 2, 3, 2] := by decide

/-- V-D4, V-D17, V-D18, V-D19, with UNNAMED_BITS_ARE_ERRORS true. -/
theorem test_classify_strict :
    ([0x0080, 0x0180, 0xFF80, 0x8090] : List (Word 16)).map
      (fun sr => ((classify { P with unnamedBitsAreErrors := true } sr).map (·.code.toNat)).getD 0) = [0, 4, 4, 2] := by
  decide

/-- V-T1 to V-T8. -/
theorem test_timed_out :
    ([(0, 0), (0, 0x1387), (0, 0x1388), (0xFFFFFFFF, 0x1387), (0xFFFFFFFF, 0x1386), (0x10, 0x0F), (0x80000000, 0x80001387),
      (0x7FFFFFFF, 0x80001387)] : List (Time × Time)).map (fun x => timedOut P x.1 x.2) =
      [false, false, true, true, false, true, false, true] := by decide

/-- V-T9 to V-T11. -/
theorem test_timed_out_extremes : timedOut { P with timeoutUs := 0 } 7 7 = true ∧
    timedOut { P with timeoutUs := 0xFFFFFFFF } 1 0 = true ∧
    timedOut { P with timeoutUs := 0xFFFFFFFF } 1 0xFFFFFFFF = false := by decide

/-! ### Witnesses: for each statement with hypotheses, a state (and operands) that meets them all -/

theorem witness_AcceptLatchesTheRequest : ∃ m : Fwc P, m.STATE = FsmState.IDLE.code ∧ m.pins.req_valid = true :=
  ⟨fwc .IDLE (levels 0 0), by decide⟩
theorem witness_AcceptWithoutRequestChangesNothing :
    ∃ m n : Fwc P, m.pins.req_valid = false ∧ n.STATE ≠ FsmState.IDLE.code :=
  ⟨fwc .IDLE hostQuiet, fwc .DONE (levels 0 0), by decide⟩
/-- For TimeStartCapturesTheTime and TimeCheckDependsOnElapsedTimeOnly. -/
theorem witness_time_answered : ∃ (m : Fwc P) (t : Time), m.pins.time_now = some t :=
  ⟨fwc .TSTART (levels 0 0xFFFFFFFF), 0xFFFFFFFF, rfl⟩
/-- For CmdProgramWritesTheProgramCommand, DataWriteWritesTheWord and CmdResetWritesTheResetCommand. -/
theorem witness_bus_completes : ∃ m : Fwc P, m.pins.bus_rdata.isSome :=
  ⟨fwc .DATA (levels 0 0), rfl⟩
theorem witness_StatusReadBranches : ∃ (m : Fwc P) (a b d : Word P.W) (c : OpResult),
    (m.pins.bus_rdata = some a ∧ isReady P a = false) ∧
    (({ m with pins := levels b 0 } : Fwc P).pins.bus_rdata = some b ∧ isReady P b = true ∧ classify P b = none) ∧
    (({ m with pins := levels d 0 } : Fwc P).pins.bus_rdata = some d ∧ isReady P d = true ∧ classify P d = some c) :=
  ⟨fwc .POLL (levels 0x007F 0), 0x007F, 0x0080, 0x0081, .UnknownProgramError, by decide⟩
theorem witness_TimeCheckComparesElapsedTime : ∃ (m : Fwc P) (t u : Time), m.pins.time_now = some t ∧
    P.timeoutUs ≤ (t.toNat + 2 ^ 32 - m.T0.toNat) % 2 ^ 32 ∧ (u.toNat + 2 ^ 32 - m.T0.toNat) % 2 ^ 32 < P.timeoutUs :=
  ⟨{ fwc .TCHK (levels 0 0x1387) with T0 := 0xFFFFFFFF }, 0x1387, 0x1386, by decide⟩
theorem witness_ReadbackComparesTheWord : ∃ (m : Fwc P) (a b : Word P.W), m.pins.bus_rdata = some a ∧ a = m.DATA ∧
    ∃ i, i < P.W ∧ b.getLsbD i ≠ m.DATA.getLsbD i :=
  ⟨fwc .RB (levels 0xBEEF 0), 0xBEEF, 0x3EEF, rfl, rfl, 15, by decide⟩
theorem witness_RespondDeliversTheResult : ∃ m n o : Fwc P,
    (m.STATE = FsmState.DONE.code ∧ m.pins.rsp_ready = true ∧ m.RESULT = OpResult.TimeoutError.code) ∧
    n.pins.rsp_ready = false ∧ o.STATE ≠ FsmState.DONE.code :=
  ⟨fwc .DONE (levels 0 0) .TimeoutError, fwc .DONE hostQuiet, fwc .IDLE hostQuiet, by decide⟩
theorem witness_DoneIsHeldUntilTheResponseIsTaken : P.WellFormed ∧ ∃ m n : Fwc P,
    (m.STATE = FsmState.DONE.code ∧ m.nextInputs.rst = false ∧ m.nextInputs.rsp_ready = false) ∧
    n.STATE = FsmState.DONE.code ∧ ∃ n' : Fwc P, step ⟨P, n⟩ = .next ⟨P, n'⟩ ∧ n'.STATE ≠ FsmState.DONE.code :=
  ⟨by decide, fwc .DONE hostQuiet, fwc .DONE (levels 0 0), by decide, rfl, _, rfl, by decide⟩
theorem witness_IdleWaitsForARequest : P.WellFormed ∧ ∃ m : Fwc P,
    m.STATE = FsmState.IDLE.code ∧ m.nextInputs.rst = false ∧ m.nextInputs.req_valid = false :=
  ⟨by decide, fwc .IDLE hostQuiet, by decide⟩
theorem witness_RespondWithReservedCodeFaults : ∃ m : Fwc P,
    m.STATE = FsmState.DONE.code ∧ m.pins.rsp_ready = true ∧ m.RESULT = 7 :=
  ⟨{ fwc .DONE (levels 0 0) with RESULT := 7 }, by decide⟩
theorem witness_TransactionThatNeverCompletesHangs : ∃ m : Fwc P, m.pins.bus_rdata = none ∧ m.pins.time_now = none :=
  ⟨fwc .POLL hanging, by decide⟩
theorem witness_StepRunsTheDecodedOperation : P.WellFormed ∧ ∃ m : Fwc P, m.nextInputs.rst = false ∧
    decode m.STATE = .ok .statusRead ∧ m.env = [levels 0x0080 0] :=
  ⟨by decide, fwc .POLL (levels 0x0080 0), by decide⟩
/-- For ResetTakesPrecedenceOverEveryState and ResetLeavesTheFwcReady. -/
theorem witness_reset_step : P.WellFormed ∧ ∃ m n : Fwc P, m.nextInputs.rst = true ∧ step ⟨P, m⟩ = .next ⟨P, n⟩ :=
  ⟨by decide, fwc .POLL resetting, _, rfl, rfl⟩
theorem witness_UnusedStateCodesAreStuckAndNeverWritten : P.WellFormed ∧ ∃ m n : Fwc P,
    (m.nextInputs.rst = false ∧ m.STATE.toNat = 9) ∧ (n.nextInputs.rst = false ∧ n.STATE.toNat = 15) ∧
    ∃ s t : State, step s = .next t :=
  ⟨by decide, { fwc .IDLE hostQuiet with STATE := 9 }, { fwc .IDLE hostQuiet with STATE := 15 }, by decide, by decide,
    ⟨P, fwc .CMD (levels 0 0)⟩, _, rfl⟩
/-- For StepsFollowTheSuccessorTable, NoStepChangesTheParameters, StepsIssueOnlyTheListedAccesses,
TimeRequestsAndResponsesHaveTheirStates and ReservedResultCodeIsNeverWritten. -/
theorem witness_step_without_reset : ∃ m n : Fwc P, m.nextInputs.rst = false ∧ m.STATE = FsmState.TCHK.code ∧
    step ⟨P, m⟩ = .next ⟨P, n⟩ ∧ n.trace = .time 5000 :: m.trace ∧ n.RESULT ≠ m.RESULT :=
  ⟨fwc .TCHK (levels 0 5000), _, by decide, by decide, rfl, by decide, by decide⟩
theorem witness_RegistersAreWrittenOnlyByTheirOperations : ∃ m n : Fwc P,
    exec .statusRead ⟨P, m⟩ = .next ⟨P, n⟩ ∧ n.RESULT ≠ m.RESULT :=
  ⟨fwc .POLL (levels 0x0088 0), _, rfl, by decide⟩
theorem witness_RequestsAreTakenOnlyInIdle : P.WellFormed ∧ ∃ (m n : Fwc P) (x : Inputs P),
    (m.env = [x] ∧ m.STATE ≠ FsmState.IDLE.code) ∧
    n.STATE = FsmState.IDLE.code ∧ n.nextInputs.rst = false ∧ n.nextInputs.req_valid = true :=
  ⟨by decide, fwc .POLL hostQuiet, fwc .IDLE (levels 0 0), hostQuiet, by decide⟩

/-- An FWC in DONE with the result `r` after an operation whose opening the transactions `es` (newest first) followed. -/
def doneAfter (r : OpResult) (es : List (Event P.A P.W)) : Fwc P :=
  { fwc .DONE (levels 0 0) r with trace := es ++ (opening P ⟨0x1000, 0xBEEF⟩ 0).reverse }

theorem doneAfter_inv {r : OpResult} {es : List (Event P.A P.W)}
    (h : OperationShape P (doneAfter r es).held r (doneAfter r es).operation) : (doneAfter r es).Inv where
  legal := show FsmState.DONE.code.toNat ≤ 8 by decide
  tstart h := absurd (show FsmState.DONE.code = _ from h) (by decide)
  cmd h := absurd (show FsmState.DONE.code = _ from h) (by decide)
  data h := absurd (show FsmState.DONE.code = _ from h) (by decide)
  poll h := absurd (show FsmState.DONE.code = _ from h) (by decide)
  tchk h := absurd (show FsmState.DONE.code = _ from h) (by decide)
  rst h := absurd (show FsmState.DONE.code = _ from h) (by decide)
  rb h := absurd (show FsmState.DONE.code = _ from h) (by decide)
  done _ := ⟨r, rfl, h⟩

theorem waits_for_nothing : Waiting P 0 [] := fun _ h => absurd h List.not_mem_nil

/-- In DONE after reading Ready at once and `0xBEEF` back. -/
def atDone : Fwc P := doneAfter .Success [.busRead 0x1000 0xBEEF, statusLine P 0x0080]

theorem atDone_inv : atDone.Inv :=
  doneAfter_inv ⟨0, [], 0x0080, waits_for_nothing, .inr (.inr (.inl ⟨by decide, by decide, rfl, by decide⟩))⟩

theorem witness_StepGoesOnWhenTransactionsComplete :
    P.WellFormed ∧ ∃ m : Fwc P, m.Inv ∧ m.nextInputs.bus_rdata.isSome ∧ m.nextInputs.time_now.isSome :=
  ⟨by decide, atDone, atDone_inv, by decide, by decide⟩
/-- For StepKeepsTheOperationInvariant, EveryOperationHasOneOfFourShapes and LastTransactionTellsTheKindOfResult. -/
theorem witness_operation_statements : ∃ (m n : Fwc P) (c : ResultCode), m.Inv ∧ m.STATE = FsmState.DONE.code ∧
    m.RESULT = OpResult.Success.code ∧ step ⟨P, m⟩ = .next ⟨P, n⟩ ∧ n.trace = .response c :: m.trace :=
  ⟨atDone, _, 0, atDone_inv, rfl, rfl, rfl, rfl⟩
/-- The other three shapes: timeout, device error, read-back error. -/
theorem witness_operation_statements_errors :
    ∀ r ∈ [OpResult.TimeoutError, .ProgramError, .ReadBackError], ∃ (m n : Fwc P), m.Inv ∧
      m.STATE = FsmState.DONE.code ∧ m.RESULT = r.code ∧ step ⟨P, m⟩ = .next ⟨P, n⟩ ∧
      n.trace = .response r.code :: m.trace := by
  intro r hr
  simp only [List.mem_cons, List.not_mem_nil, or_false] at hr
  rcases hr with rfl | rfl | rfl
  · exact ⟨doneAfter .TimeoutError [.time 5000, statusLine P 0], _,
      doneAfter_inv ⟨0, [], 0, waits_for_nothing, .inl ⟨by decide, rfl, 5000, by decide, by decide⟩⟩, rfl, rfl, rfl, rfl⟩
  · exact ⟨doneAfter .ProgramError [.busWrite 0 0x00FF, statusLine P 0x0090], _,
      doneAfter_inv ⟨0, [], 0x0090, waits_for_nothing, .inr (.inl ⟨by decide, by decide, by decide⟩)⟩, rfl, rfl, rfl, rfl⟩
  · exact ⟨doneAfter .ReadBackError [.busRead 0x1000 0x3EEF, statusLine P 0x0080], _,
      doneAfter_inv ⟨0, [], 0x0080, waits_for_nothing,
        .inr (.inr (.inr ⟨by decide, by decide, rfl, 0x3EEF, by decide, by decide⟩))⟩, rfl, rfl, rfl, rfl⟩
theorem witness_LeftoverRegistersDoNotMatterToAStep : ∃ m n : Fwc P, Agree m n ∧ m.SR ≠ n.SR ∧ m.T0 ≠ n.T0 :=
  ⟨fwc .RB (levels 0 0), { fwc .RB (levels 0 0) with SR := 1, T0 := 1 }, ⟨rfl, rfl, rfl, fun _ => rfl,
    fun h => absurd h (by decide), fun _ => rfl⟩, by decide, by decide⟩
theorem witness_SameInputsGiveTheSameOperation : ∃ m n : Fwc P, m.STATE = FsmState.IDLE.code ∧
    n.STATE = FsmState.IDLE.code ∧ m.env = n.env ∧ m.draws = n.draws ∧ m.ADDR ≠ n.ADDR ∧ m.trace ≠ n.trace :=
  ⟨fwc .IDLE (levels 0 0), { fwc .IDLE (levels 0 0) with ADDR := 7, trace := [.time 1] }, by decide⟩

/-- The two FWCs differ in the registers the operation will not read again, in the draw count and in the trace before the
operation; both clauses' premises hold of them. -/
theorem witness_SameRequestAndReadValuesGiveTheSameOperation : ∃ m n : Fwc P, m.Inv ∧ n.Inv ∧
    m.STATE = FsmState.DONE.code ∧ n.STATE = FsmState.DONE.code ∧ m.operation.head? = n.operation.head? ∧
    SameReadValues m.operation n.operation ∧ m.operation.length = n.operation.length ∧ m.SR ≠ n.SR ∧ m.T0 ≠ n.T0 ∧
    m.draws ≠ n.draws ∧ m.trace ≠ n.trace := by
  refine ⟨atDone, { atDone with SR := 1, T0 := 1, draws := 7, trace := atDone.trace ++ [.response 0] }, atDone_inv, ?_,
    rfl, rfl, rfl, ?_, rfl, by decide, by decide, by decide, by decide⟩
  · constructor
    · exact atDone_inv.legal
    all_goals intro h
    all_goals first | exact absurd h (by decide) | exact atDone_inv.done rfl
  · intro i
    refine ⟨fun a b v w h g => ?_, fun t u h g => ?_⟩ <;> have e := h.symm.trans g
    · simp only [Option.some.injEq, Event.busRead, Event.bus.injEq, BusTx.mk.injEq] at e
      exact e.2.2
    · simpa using e
theorem witness_SameScheduledInputsGiveTheSameTransactions : ∃ m n : Fwc P, m.STATE = FsmState.IDLE.code ∧
    n.STATE = FsmState.IDLE.code ∧ m.env = n.env ∧ 1 ≤ m.env.length ∧ m.draws ≠ n.draws ∧ m.trace ≠ n.trace :=
  ⟨fwc .IDLE (levels 0 0), { fwc .IDLE (levels 0 0) with draws := 7, trace := [.time 1] }, by decide⟩

/-- One waiting round: the status `0x0000` at the time 500. -/
def round : Inputs P × Inputs P := (levels 0 0, levels 0 500)

theorem round_waits : MakesRounds P 0 [round] [(0x0000, 500)] :=
  ⟨.cons ⟨⟨rfl, rfl⟩, rfl, rfl⟩ .nil, fun x h => by rw [List.mem_singleton.mp h]; decide⟩

theorem witness_PollReadsStatusOncePerRoundAndOnceMore : P.WellFormed ∧ ∃ m : Fwc P, m.STATE = FsmState.POLL.code ∧
    m.env = pollInputs [round] ++ levels 0x0080 0 :: [] ∧ MakesRounds P m.T0 [round] [(0x0000, 500)] ∧
    (levels 0x0080 0).BusAnswers 0x0080 ∧ isReady P 0x0080 = true :=
  ⟨by decide, { fwc .POLL hostQuiet with env := pollInputs [round] ++ levels 0x0080 0 :: [] }, rfl, rfl, round_waits,
    ⟨rfl, rfl⟩, by decide⟩

/-- An FWC in IDLE that will see the inputs of an operation: opening, one waiting round, then `x`, `y`, `z`. -/
def scheduled (x y z : Inputs P) : Fwc P :=
  { fwc .IDLE hostQuiet with env :=
      [levels 0 0, levels 0 0, levels 0 0, levels 0 0] ++ pollInputs [round] ++ [x, y, z] ++ [] }

/-- What the three statements about whole operations ask before the last status read, with the inputs of `scheduled`. -/
def BeginsAnOperation (m : Fwc P) (x y z : Inputs P) : Prop :=
  P.WellFormed ∧ m.STATE = FsmState.IDLE.code ∧
  m.env = [levels 0 0, levels 0 0, levels 0 0, levels 0 0] ++ pollInputs [round] ++ [x, y, z] ++ [] ∧
  OpeningInputs (p := P) ⟨0x1000, 0xBEEF⟩ 0 (levels 0 0) (levels 0 0) (levels 0 0) (levels 0 0) ∧
  MakesRounds P 0 [round] [(0x0000, 500)]

theorem scheduled_begins (x y z : Inputs P) : BeginsAnOperation (scheduled x y z) x y z :=
  ⟨by decide, rfl, rfl, ⟨rfl, rfl, rfl, rfl, ⟨rfl, rfl⟩, ⟨rfl, rfl⟩, ⟨rfl, rfl⟩⟩, round_waits⟩

/-- With a read-back that equals the value, and with one that does not. -/
theorem witness_OperationEndingInReadbackRuns : ∀ rb ∈ [(0xBEEF : Word P.W), 0xBEEE],
    ∃ (m : Fwc P) (x y z : Inputs P) (sr : Word P.W), BeginsAnOperation m x y z ∧ x.BusAnswers sr ∧
    isReady P sr = true ∧ classify P sr = none ∧ y.BusAnswers rb ∧ z.rst = false ∧ z.rsp_ready = true :=
  fun rb _ => ⟨_, levels 0x0180 0, levels rb 0, levels 0 0, 0x0180, scheduled_begins _ _ _, ⟨rfl, rfl⟩, by decide,
    by decide, ⟨rfl, rfl⟩, rfl, rfl⟩
theorem witness_OperationEndingInDeviceErrorRuns :
    ∃ (m : Fwc P) (x y z : Inputs P) (sr : Word P.W) (e : OpResult), BeginsAnOperation m x y z ∧ x.BusAnswers sr ∧
    isReady P sr = true ∧ classify P sr = some e ∧ y.BusCompletes ∧ z.rst = false ∧ z.rsp_ready = true :=
  ⟨_, levels 0x0082 0, levels 0 0, levels 0 0, 0x0082, .ProtectedBlockError, scheduled_begins _ _ _, ⟨rfl, rfl⟩,
    by decide, by decide, ⟨rfl, rfl⟩, rfl, rfl⟩
theorem witness_OperationEndingInTimeoutRuns :
    ∃ (m : Fwc P) (x y z : Inputs P) (sr : Word P.W) (t : Time), BeginsAnOperation m x y z ∧ x.BusAnswers sr ∧
    isReady P sr = false ∧ y.TimeAnswers t ∧ timedOut P 0 t = true ∧ z.rst = false ∧ z.rsp_ready = true :=
  ⟨_, levels 0x007F 0, levels 0 5000, levels 0 0, 0x007F, 5000, scheduled_begins _ _ _, ⟨rfl, rfl⟩, by decide,
    ⟨rfl, rfl⟩, by decide, rfl, rfl⟩
theorem witness_PollEndsOnceTheTimeHasPassed : P.WellFormed ∧ ∃ (m : Fwc P) (last : Inputs P × Inputs P) (t : Time),
    m.STATE = FsmState.POLL.code ∧ m.env = pollInputs ([round] ++ [last]) ++ [] ∧
    (∀ x ∈ [round] ++ [last], x.1.BusCompletes ∧ x.2.rst = false ∧ x.2.time_now.isSome) ∧
    last.2.time_now = some t ∧ timedOut P m.T0 t = true :=
  ⟨by decide, { fwc .POLL hostQuiet with env := pollInputs ([round] ++ [(levels 0 0, levels 0 5000)]) ++ [] },
    (levels 0 0, levels 0 5000), 5000, rfl, rfl,
    by simp [round, Inputs.BusCompletes, levels]; rfl, rfl, by decide⟩

/-- The bits `V`, `P`, `B`, `O`, `U` of R162's table for a word. -/
def tableBits (sr : Word 16) : List Bool :=
  [sr.getLsbD P.posVppError, sr.getLsbD P.posProgramError, sr.getLsbD P.posBlockProtectionError,
    [P.posEraseSuspend, P.posEraseError, P.posProgramSuspend, P.posReserved].any sr.getLsbD,
    (List.range 16).any fun i => !P.positions.contains i && sr.getLsbD i]

/-- A word in each row of R162's table (the last row for both values of the parameter). -/
theorem witness_DecodeTableOfAReadyWord : P.WellFormed ∧ { P with unnamedBitsAreErrors := true }.WellFormed ∧
    ([0x0088, 0x0090, 0x0082, 0x0081, 0x0080, 0x0180] : List (Word 16)).map tableBits =
      [[true, false, false, false, false], [false, true, false, false, false], [false, false, true, false, false],
        [false, false, false, true, false], [false, false, false, false, false],
        [false, false, false, false, true]] := by decide
theorem witness_UnnamedBitsDoNotSelectAnError : P.WellFormed ∧ P.unnamedBitsAreErrors = false ∧
    (0x0080#16 ≠ 0xFF80#16 ∧ ∀ i ∈ P.positions, (0x0080#16).getLsbD i = (0xFF80#16).getLsbD i) := by decide
/-- For ReadyIsTheReadyBit too; here with `W = 8`, the least width. -/
theorem witness_NamedMaskHasEightBits : { P with W := 8, resetCmd := 0xFF }.WellFormed := by decide
theorem witness_TimeoutBoundExtremes : ∃ (m : Fwc { P with timeoutUs := 0 }) (n : Fwc { P with timeoutUs := 0 })
    (m' : Fwc { P with timeoutUs := 0xFFFFFFFF }) (n' : Fwc { P with timeoutUs := 0xFFFFFFFF }),
    m.pins.time_now = some 0 ∧ exec .timeCheck ⟨_, m⟩ = .next ⟨_, n⟩ ∧
    m'.pins.time_now = some 0 ∧ exec .timeCheck ⟨_, m'⟩ = .next ⟨_, n'⟩ ∧ (0 : Time) = m'.T0 - 1 :=
  ⟨{ Fwc.reset _ with pins := { Inputs.quiet _ with time_now := some 0 } }, _,
    { Fwc.reset _ with pins := { Inputs.quiet _ with time_now := some 0 }, T0 := 1 }, _, rfl, rfl, rfl, rfl, by decide⟩
/-- For StateCodesDecodeAndEncodeAgree. -/
theorem witness_StateCodes : ∃ (c d : StateCode), decode c = .ok .respond ∧ 9 ≤ d.toNat := ⟨8, 9, by decide⟩

end Sys2Proof.Tests
end

section
/-! PROOF. 00_scope.md: which parameter sets have no machine (R6), and what one step of a machine is (R11). -/

namespace Sys2Proof.Machine

variable {p : Params} {m : Fwc p}

/-! ### Steps that are refused -/

/-- Every operation has a meaning, so once the parameters have been checked nothing is refused. -/
theorem runSampled_ne_refused (r : Refusal) : runSampled ⟨p, m⟩ ≠ .refused r := by
  unfold runSampled
  split
  · simp
  · split
    · next i _ => exact exec_ne_refused i r
    · simp

theorem step_of_wellFormed (hp : p.WellFormed) : step ⟨p, m⟩ = runSampled ⟨p, m.sample⟩ := if_pos hp

theorem step_of_not_wellFormed (hp : ¬ p.WellFormed) : step ⟨p, m⟩ = .refused .illFormedParams := if_neg hp

theorem step_eq_refused_iff : step ⟨p, m⟩ = .refused .illFormedParams ↔ ¬ p.WellFormed := by
  refine ⟨fun h hp => ?_, step_of_not_wellFormed⟩
  rw [step_of_wellFormed hp] at h
  exact runSampled_ne_refused _ h

/-! ### Ill-formed parameter sets -/

/-- Every index below 8 is inside the list, so equal lookups are equal positions. -/
theorem not_nodup_positions_iff :
    ¬ p.positions.Nodup ↔ ∃ i j : Fin 8, i ≠ j ∧ p.positions[i.val]? = p.positions[j.val]? := by
  have lookup (i : Fin 8) : p.positions[i.val]? = some (p.positions[i.val]'i.isLt) :=
    List.getElem?_eq_getElem i.isLt
  have inj : p.positions.Nodup ↔ ∀ i j : Fin 8, p.positions[i.val]? = p.positions[j.val]? → i = j := by
    simp only [lookup, Option.some.injEq]
    exact List.nodup_iff_injective_getElem
  simp only [inj, not_forall, exists_prop, ne_eq, and_comm]

/-- The bound needs `0 < W`: with `W = 0` the position 0 is out of range but not above `W - 1`, which is 0 too. -/
theorem exists_position_not_lt_iff (hW : 8 ≤ p.W) :
    (∃ i ∈ p.positions, ¬ i < p.W) ↔ ∃ i ∈ p.positions, p.W - 1 < i := by
  have key (i : Nat) : ¬ i < p.W ↔ p.W - 1 < i := by omega
  simp only [key]

theorem not_lt_two_pow_iff (n x : Nat) : ¬ x < 2 ^ n ↔ 2 ^ n - 1 < x := by
  have := Nat.two_pow_pos n
  omega

/-- R6 read the other way. A width below 8 breaks it by itself; from 8 on, condition by condition. -/
theorem not_wellFormed_iff :
    ¬ p.WellFormed ↔
      p.W < 8 ∨ p.A < 1 ∨
      (∃ i j : Fin 8, i ≠ j ∧ p.positions[i.val]? = p.positions[j.val]?) ∨
      (∃ i ∈ p.positions, p.W - 1 < i) ∨
      2 ^ p.A - 1 < p.cmdRegAddr ∨ 2 ^ p.A - 1 < p.statusRegAddr ∨
      2 ^ p.W - 1 < p.programCmd ∨ 2 ^ p.W - 1 < p.resetCmd ∨ 2 ^ 32 - 1 < p.timeoutUs := by
  rw [← not_nodup_positions_iff]
  rcases Nat.lt_or_ge p.W 8 with hW | hW
  · have hp : ¬ p.WellFormed := fun ⟨h8, _⟩ => absurd hW (Nat.not_lt.mpr h8)
    exact iff_of_true hp (.inl hW)
  · simp only [Params.WellFormed, Classical.not_and_iff_not_or_not, not_forall, exists_prop, not_lt_two_pow_iff,
      exists_position_not_lt_iff hW, Nat.not_le]

/-! ### Steps that run an operation -/

theorem runSampled_of_decode {i : Instr} (hr : m.pins.rst = false) (hi : decode m.STATE = .ok i) :
    runSampled ⟨p, m⟩ = exec i ⟨p, m⟩ := by
  simp [runSampled, hr, hi]

/-- R11: the converse reading of `step_cases` for a step without reset. -/
theorem step_of_decode {i : Instr} (hp : p.WellFormed) (hr : m.nextInputs.rst = false) (hi : decode m.STATE = .ok i) :
    step ⟨p, m⟩ = exec i ⟨p, m.sample⟩ := by
  rw [step_of_wellFormed hp]
  exact runSampled_of_decode hr hi

end Sys2Proof.Machine

namespace Sys2Proof.Proofs

open Sys2Proof.Machine

/-- Settles O19: no operation answers a refusal, so a step is refused exactly when the parameter set breaks R6. -/
theorem illFormedParametersAreRefused : Obligations.IllFormedParametersAreRefused := by
  intro p m
  rw [step_eq_refused_iff, not_wellFormed_iff]
  rfl

/-- Settles O15: the sampled machine is the one the statement writes out, and its inputs are the first scheduled
record. -/
theorem stepRunsTheDecodedOperation : Obligations.StepRunsTheDecodedOperation := by
  intro p m i hp hr hi
  exact ⟨step_of_decode hp hr hi, fun _ _ => m.nextInputs_cons⟩

end Sys2Proof.Proofs
end

section
/-! PROOF. 10_state.md: what an operation performed answers, whichever it is; the successor table (R26), the registers and
their writers (R20 to R25), the parameters (R35), the output ports (R31), and the invariant of the operation (R26, R103). -/

namespace Sys2Proof.Machine

variable {p : Params} {m n : Fwc p} {i : Instr}

/-! ### What an operation performed answers -/

/-- The FWC `m` performs the operation and becomes the FWC given last, one constructor per path of the spec's pseudocode,
under the condition of that path. -/
inductive Fwc.Performs (m : Fwc p) : Instr → Fwc p → Prop where
  | accept (hs : m.STATE = FsmState.IDLE.code) (hv : m.pins.req_valid = true) :
      m.Performs .accept (((m.emit (.request ⟨m.pins.req_addr, m.pins.req_value⟩)).latch
        ⟨m.pins.req_addr, m.pins.req_value⟩).goto .TSTART)
  | acceptWaits (hw : ¬ (m.STATE = FsmState.IDLE.code ∧ m.pins.req_valid = true)) : m.Performs .accept m
  | timeStart {t : Time} (ht : m.pins.time_now = some t) :
      m.Performs .timeStart (((m.emit (.time t)).setT0 t).goto .CMD)
  | cmdProgram (hb : m.pins.bus_rdata.isSome) :
      m.Performs .cmdProgram ((m.emit (.busWrite (cmdRegAddr p) (programCmd p))).goto .DATA)
  | dataWrite (hb : m.pins.bus_rdata.isSome) :
      m.Performs .dataWrite ((m.emit (.busWrite m.ADDR m.DATA)).goto .POLL)
  | statusNotReady {sr : Word p.W} (hb : m.pins.bus_rdata = some sr) (hr : isReady p sr = false) :
      m.Performs .statusRead (((m.emit (statusLine p sr)).setSR sr).goto .TCHK)
  | statusClean {sr : Word p.W} (hb : m.pins.bus_rdata = some sr) (hr : isReady p sr = true)
      (hc : classify p sr = none) : m.Performs .statusRead (((m.emit (statusLine p sr)).setSR sr).goto .RB)
  | statusError {sr : Word p.W} {r : OpResult} (hb : m.pins.bus_rdata = some sr) (hr : isReady p sr = true)
      (hc : classify p sr = some r) : m.Performs .statusRead (((m.emit (statusLine p sr)).setSR sr).select r .RST)
  | timeLeft {t : Time} (ht : m.pins.time_now = some t) (ho : timedOut p m.T0 t = false) :
      m.Performs .timeCheck ((m.emit (.time t)).goto .POLL)
  | timeOut {t : Time} (ht : m.pins.time_now = some t) (ho : timedOut p m.T0 t = true) :
      m.Performs .timeCheck ((m.emit (.time t)).select .TimeoutError .DONE)
  | cmdReset (hb : m.pins.bus_rdata.isSome) :
      m.Performs .cmdReset ((m.emit (.busWrite (cmdRegAddr p) (resetCmd p))).goto .DONE)
  | readback {rb : Word p.W} (hb : m.pins.bus_rdata = some rb) : m.Performs .readback
      ((m.emit (.busRead m.ADDR rb)).select (if rb = m.DATA then .Success else .ReadBackError) .DONE)
  | respond (hs : m.STATE = FsmState.DONE.code) (hr : m.pins.rsp_ready = true) (hres : m.RESULT ≠ reservedResult) :
      m.Performs .respond ((m.emit (.response m.RESULT)).goto .IDLE)
  | respondWaits (hw : ¬ (m.STATE = FsmState.DONE.code ∧ m.pins.rsp_ready = true)) : m.Performs .respond m

/-- Ties `Fwc.Performs` to the model: a meaning that answers a next state has performed its operation. -/
theorem exec_next_performs {t : State} (h : exec i ⟨p, m⟩ = .next t) : ∃ n : Fwc p, t = ⟨p, n⟩ ∧ m.Performs i n := by
  cases i with
  | accept =>
    rcases execAccept_next h with ⟨hs, hv, rfl⟩ | ⟨hw, rfl⟩
    · exact ⟨_, rfl, .accept hs hv⟩
    · exact ⟨_, rfl, .acceptWaits hw⟩
  | timeStart => obtain ⟨x, hx, rfl⟩ := execTimeStart_next h; exact ⟨_, rfl, .timeStart hx⟩
  | cmdProgram => obtain ⟨hb, rfl⟩ := execCmdProgram_next h; exact ⟨_, rfl, .cmdProgram hb⟩
  | dataWrite => obtain ⟨hb, rfl⟩ := execDataWrite_next h; exact ⟨_, rfl, .dataWrite hb⟩
  | statusRead =>
    obtain ⟨sr, hb, rfl⟩ := execStatusRead_next h
    refine ⟨_, rfl, ?_⟩
    rcases statusBranch_cases sr ((m.emit (statusLine p sr)).setSR sr) with ⟨hr, hn⟩ | ⟨hr, hc, hn⟩ | ⟨r, hr, hc, hn⟩
    · exact hn ▸ .statusNotReady hb hr
    · exact hn ▸ .statusClean hb hr hc
    · exact hn ▸ .statusError hb hr hc
  | timeCheck =>
    obtain ⟨t, ht, rfl⟩ := execTimeCheck_next h
    refine ⟨_, rfl, ?_⟩
    rcases timeBranch_cases t (m.emit (.time t)) with ⟨ho, hn⟩ | ⟨ho, hn⟩
    · exact hn ▸ .timeLeft ht ho
    · exact hn ▸ .timeOut ht ho
  | cmdReset => obtain ⟨hb, rfl⟩ := execCmdReset_next h; exact ⟨_, rfl, .cmdReset hb⟩
  | readback => obtain ⟨_, hb, rfl⟩ := execReadback_next h; exact ⟨_, rfl, .readback hb⟩
  | respond =>
    rcases execRespond_next h with ⟨hs, hr, hres, rfl⟩ | ⟨hw, rfl⟩
    · exact ⟨_, rfl, .respond hs hr hres⟩
    · exact ⟨_, rfl, .respondWaits hw⟩

theorem exec_performs (h : exec i ⟨p, m⟩ = .next ⟨p, n⟩) : m.Performs i n := by
  obtain ⟨_, hn, hperf⟩ := exec_next_performs h
  cases hn
  exact hperf

/-- A step without reset performs the operation of `STATE` on the sampled inputs. -/
theorem step_performs (hr : m.nextInputs.rst = false) (h : step ⟨p, m⟩ = .next ⟨p, n⟩) :
    ∃ i : Instr, m.STATE = i.performedIn.code ∧ m.sample.Performs i n := by
  obtain ⟨_, ⟨hrst, _⟩ | ⟨_, i, hs, he⟩⟩ := step_cases h
  · simp [hr] at hrst
  · exact ⟨i, hs, exec_performs he⟩

/-! ### The registers and their writers (R20 to R25) -/

theorem Fwc.Performs.keeps_ADDR_DATA (h : m.Performs i n) (hi : i ≠ .accept) : n.ADDR = m.ADDR ∧ n.DATA = m.DATA := by
  cases h
  case accept => exact absurd rfl hi
  all_goals exact ⟨rfl, rfl⟩

theorem Fwc.Performs.keeps_T0 (h : m.Performs i n) (hi : i ≠ .timeStart) : n.T0 = m.T0 := by
  cases h
  case timeStart => exact absurd rfl hi
  all_goals rfl

theorem Fwc.Performs.keeps_SR (h : m.Performs i n) (hi : i ≠ .statusRead) : n.SR = m.SR := by
  cases h
  case statusNotReady | statusClean | statusError => exact absurd rfl hi
  all_goals rfl

/-- The model's own fields and the sampled levels are no register, and no operation writes them. -/
theorem Fwc.Performs.keeps_inputs (h : m.Performs i n) : n.pins = m.pins ∧ n.env = m.env ∧ n.draws = m.draws := by
  cases h <;> exact ⟨rfl, rfl, rfl⟩

/-- `RESULT` is written on three paths only, each time with the code of one of the seven results. -/
theorem Fwc.Performs.RESULT_cases (h : m.Performs i n) :
    n.RESULT = m.RESULT ∨
    (∃ r : OpResult, n.RESULT = r.code) ∧
      ((i = .statusRead ∧ n.STATE = FsmState.RST.code) ∨
       (i ∈ [Instr.timeCheck, .readback] ∧ n.STATE = FsmState.DONE.code)) := by
  cases h
  case statusError => exact .inr ⟨⟨_, rfl⟩, .inl ⟨rfl, rfl⟩⟩
  case timeOut => exact .inr ⟨⟨.TimeoutError, rfl⟩, .inr ⟨by decide, rfl⟩⟩
  case readback => exact .inr ⟨⟨_, rfl⟩, .inr ⟨by decide, rfl⟩⟩
  all_goals exact .inl rfl

/-! ### Successors (R26) -/

/-- Each path of an operation ends in a state that R26 lists, under the row's condition. -/
theorem Fwc.Performs.successor (h : m.sample.Performs i n) (hs : m.STATE = i.performedIn.code) :
    ∃ g : FsmState, n.STATE = g.code ∧ Successor m m.nextInputs i.performedIn g := by
  cases h with
  | accept _ hv => exact ⟨.TSTART, rfl, hv⟩
  | acceptWaits hw => exact ⟨.IDLE, hs, Bool.eq_false_iff.mpr fun hv => hw ⟨hs, hv⟩⟩
  | timeStart => exact ⟨.CMD, rfl, trivial⟩
  | cmdProgram => exact ⟨.DATA, rfl, trivial⟩
  | dataWrite => exact ⟨.POLL, rfl, trivial⟩
  | statusNotReady hb hr => exact ⟨.TCHK, rfl, _, hb, hr⟩
  | statusClean hb hr hc => exact ⟨.RB, rfl, _, hb, hr, hc⟩
  | statusError hb hr hc => exact ⟨.RST, rfl, _, hb, hr, by simp [hc]⟩
  | timeLeft ht ho => exact ⟨.POLL, rfl, _, ht, ho⟩
  | timeOut ht ho => exact ⟨.DONE, rfl, _, ht, ho⟩
  | cmdReset => exact ⟨.DONE, rfl, trivial⟩
  | readback => exact ⟨.DONE, rfl, trivial⟩
  | respond _ hr => exact ⟨.IDLE, rfl, hr⟩
  | respondWaits hw => exact ⟨.DONE, hs, Bool.eq_false_iff.mpr fun hr => hw ⟨hs, hr⟩⟩

/-! ### The transactions of the operation -/

@[simp] theorem Fwc.held_emit (e : Event p.A p.W) : (m.emit e).held = m.held := rfl
@[simp] theorem Fwc.held_goto (f : FsmState) : (m.goto f).held = m.held := rfl
@[simp] theorem Fwc.held_latch (q : Req p.A p.W) : (m.latch q).held = q := rfl
@[simp] theorem Fwc.held_setT0 (t : Time) : (m.setT0 t).held = m.held := rfl
@[simp] theorem Fwc.held_setSR (sr : Word p.W) : (m.setSR sr).held = m.held := rfl
@[simp] theorem Fwc.held_select (r : OpResult) (f : FsmState) : (m.select r f).held = m.held := rfl

@[simp] theorem Fwc.operation_goto (f : FsmState) : (m.goto f).operation = m.operation := rfl
@[simp] theorem Fwc.operation_latch (q : Req p.A p.W) : (m.latch q).operation = m.operation := rfl
@[simp] theorem Fwc.operation_setT0 (t : Time) : (m.setT0 t).operation = m.operation := rfl
@[simp] theorem Fwc.operation_setSR (sr : Word p.W) : (m.setSR sr).operation = m.operation := rfl
@[simp] theorem Fwc.operation_select (r : OpResult) (f : FsmState) : (m.select r f).operation = m.operation := rfl

/-- A request begins a new operation; the transactions below continue the one in progress. -/
@[simp] theorem Fwc.operation_emit_request (q : Req p.A p.W) :
    (m.emit (.request q)).operation = [.request q] := rfl
@[simp] theorem Fwc.operation_emit_time (t : Time) : (m.emit (.time t)).operation = m.operation ++ [.time t] :=
  List.reverse_cons
@[simp] theorem Fwc.operation_emit_busRead (a : Address p.A) (v : Word p.W) :
    (m.emit (.busRead a v)).operation = m.operation ++ [.busRead a v] := List.reverse_cons
@[simp] theorem Fwc.operation_emit_busWrite (a : Address p.A) (v : Word p.W) :
    (m.emit (.busWrite a v)).operation = m.operation ++ [.busWrite a v] := List.reverse_cons
@[simp] theorem Fwc.operation_emit_statusLine (sr : Word p.W) :
    (m.emit (statusLine p sr)).operation = m.operation ++ [statusLine p sr] := List.reverse_cons

theorem pollLines_concat (xs : List (Word p.W × Time)) (sr : Word p.W) (t : Time) :
    pollLines p (xs ++ [(sr, t)]) = pollLines p xs ++ [statusLine p sr, .time t] := by
  simp [pollLines]

theorem waiting_nil (t0 : Time) : Waiting p t0 [] := by simp [Waiting]

theorem Waiting.concat {t0 t : Time} {xs : List (Word p.W × Time)} {sr : Word p.W} (hw : Waiting p t0 xs)
    (hr : isReady p sr = false) (ho : timedOut p t0 t = false) : Waiting p t0 (xs ++ [(sr, t)]) := by
  intro x hx
  rcases List.mem_append.mp hx with hx | hx
  · exact hw x hx
  · rw [List.mem_singleton.mp hx]
    exact ⟨hr, ho⟩

/-! ### The invariant of the operation -/

/-- What the invariant asks of an FWC in the state `f` alone. -/
def Fwc.Progress (m : Fwc p) : FsmState → Prop
  | .IDLE   => True
  | .TSTART => m.operation = [.request m.held]
  | .CMD    => m.operation = [.request m.held, .time m.T0]
  | .DATA   => m.operation = [.request m.held, .time m.T0, .busWrite (cmdRegAddr p) (programCmd p)]
  | .POLL   => ∃ xs, Waiting p m.T0 xs ∧ m.operation = opening p m.held m.T0 ++ pollLines p xs
  | .TCHK   => ∃ xs, Waiting p m.T0 xs ∧ isReady p m.SR = false ∧
      m.operation = opening p m.held m.T0 ++ pollLines p xs ++ [statusLine p m.SR]
  | .RST    => ∃ xs r, Waiting p m.T0 xs ∧ isReady p m.SR = true ∧ classify p m.SR = some r ∧ m.RESULT = r.code ∧
      m.operation = opening p m.held m.T0 ++ pollLines p xs ++ [statusLine p m.SR]
  | .RB     => ∃ xs, Waiting p m.T0 xs ∧ isReady p m.SR = true ∧ classify p m.SR = none ∧
      m.operation = opening p m.held m.T0 ++ pollLines p xs ++ [statusLine p m.SR]
  | .DONE   => ∃ r, m.RESULT = r.code ∧ OperationShape p m.held r m.operation

/-- State codes differ, so of the invariant's clauses only the one of the present state says anything. -/
theorem inv_iff_progress {f : FsmState} (hs : m.STATE = f.code) : m.Inv ↔ m.Progress f := by
  constructor
  · intro h
    cases f with
    | IDLE => trivial
    | TSTART => exact h.tstart hs
    | CMD => exact h.cmd hs
    | DATA => exact h.data hs
    | POLL => exact h.poll hs
    | TCHK => exact h.tchk hs
    | RST => exact h.rst hs
    | RB => exact h.rb hs
    | DONE => exact h.done hs
  · intro h
    constructor
    · rw [hs]
      exact stateCode_le f
    all_goals
      intro hg
      obtain rfl := stateCode_inj.mp (hs.symm.trans hg)
      exact h

/-- The invariant reads neither the input levels nor the schedule. -/
theorem Fwc.Inv.sample (h : m.Inv) : m.sample.Inv := { h with }

/-- R103: every path of every operation takes a run that has got as far as `STATE` says one transaction further (or
waits). -/
theorem Fwc.Performs.keeps_inv (h : m.Performs i n) (hs : m.STATE = i.performedIn.code) (hm : m.Inv) : n.Inv := by
  have hprog : m.Progress i.performedIn := (inv_iff_progress hs).mp hm
  cases h with
  | acceptWaits => exact hm
  | respondWaits => exact hm
  | respond => exact (inv_iff_progress (f := .IDLE) rfl).mpr trivial
  | accept => exact (inv_iff_progress (f := .TSTART) rfl).mpr (by simp [Fwc.Progress])
  | timeStart =>
    have hop : m.operation = [.request m.held] := hprog
    exact (inv_iff_progress (f := .CMD) rfl).mpr (by simp [Fwc.Progress, hop])
  | cmdProgram =>
    have hop : m.operation = [.request m.held, .time m.T0] := hprog
    exact (inv_iff_progress (f := .DATA) rfl).mpr (by simp [Fwc.Progress, hop])
  | dataWrite =>
    have hop : m.operation = [.request m.held, .time m.T0, .busWrite (cmdRegAddr p) (programCmd p)] := hprog
    refine (inv_iff_progress (f := .POLL) rfl).mpr ⟨[], waiting_nil _, ?_⟩
    simp [hop, opening, pollLines, Fwc.held]
  | statusNotReady _ hr =>
    obtain ⟨xs, hw, hop⟩ := hprog
    exact (inv_iff_progress (f := .TCHK) rfl).mpr ⟨xs, hw, hr, by simp [hop]⟩
  | statusClean _ hr hc =>
    obtain ⟨xs, hw, hop⟩ := hprog
    exact (inv_iff_progress (f := .RB) rfl).mpr ⟨xs, hw, hr, hc, by simp [hop]⟩
  | statusError _ hr hc =>
    obtain ⟨xs, hw, hop⟩ := hprog
    exact (inv_iff_progress (f := .RST) rfl).mpr ⟨xs, _, hw, hr, hc, rfl, by simp [hop]⟩
  | timeLeft _ ho =>
    obtain ⟨xs, hw, hr, hop⟩ := hprog
    exact (inv_iff_progress (f := .POLL) rfl).mpr ⟨_, hw.concat hr ho, by simp [hop, pollLines_concat]⟩
  | timeOut _ ho =>
    obtain ⟨xs, hw, hr, hop⟩ := hprog
    exact (inv_iff_progress (f := .DONE) rfl).mpr
      ⟨_, rfl, m.T0, xs, m.SR, hw, .inl ⟨hr, rfl, _, ho, by simp [hop]⟩⟩
  | cmdReset =>
    obtain ⟨xs, r, hw, hr, hc, hres, hop⟩ := hprog
    exact (inv_iff_progress (f := .DONE) rfl).mpr
      ⟨r, hres, m.T0, xs, m.SR, hw, .inr (.inl ⟨hr, hc, by simp [hop]⟩)⟩
  | @readback rb _ =>
    obtain ⟨xs, hw, hr, hc, hop⟩ := hprog
    refine (inv_iff_progress (f := .DONE) rfl).mpr ⟨_, rfl, m.T0, xs, m.SR, hw, .inr (.inr ?_)⟩
    by_cases hrb : rb = m.DATA
    · exact .inl ⟨hr, hc, if_pos hrb, by simp [hop, hrb, Fwc.held]⟩
    · exact .inr ⟨hr, hc, if_neg hrb, rb, hrb, by simp [hop, Fwc.held]⟩

/-! ### The output ports (R31) -/

theorem Fwc.busy_eq : m.busy = (!m.req_ready && !m.rsp_valid) := rfl

theorem Fwc.rsp_valid_of_req_ready (h : m.req_ready = true) : m.rsp_valid = false := by
  rw [m.req_ready_iff] at h
  simp [Fwc.rsp_valid, h]

theorem Fwc.busy_iff : m.busy = true ↔ m.STATE ≠ FsmState.IDLE.code ∧ m.STATE ≠ FsmState.DONE.code := by
  simp [Fwc.busy]

theorem Fwc.one_output_port_is_set : [m.req_ready, m.rsp_valid, m.busy].count true = 1 := by
  rw [Fwc.busy_eq]
  cases hi : m.req_ready with
  | true => simp [Fwc.rsp_valid_of_req_ready hi]
  | false => cases m.rsp_valid <;> rfl

end Sys2Proof.Machine

namespace Sys2Proof.Proofs

open Sys2Proof.Machine

/-- Settles O29: a reset step goes to IDLE, of which the invariant asks nothing, and every other step performs an
operation. -/
theorem stepKeepsTheOperationInvariant : Obligations.StepKeepsTheOperationInvariant := by
  intro p m n hm h
  obtain ⟨_, ⟨_, hn⟩ | ⟨_, i, hs, he⟩⟩ := step_cases h
  · cases hn
    exact (inv_iff_progress (f := .IDLE) rfl).mpr trivial
  · exact (exec_performs he).keeps_inv hs hm.sample

/-- Settles O20: the state that the operation is performed in is the state the step starts from. -/
theorem stepsFollowTheSuccessorTable : Obligations.StepsFollowTheSuccessorTable := by
  intro p m n f hr hf h
  obtain ⟨i, hs, hperf⟩ := step_performs hr h
  obtain rfl : f = i.performedIn := stateCode_inj.mp (hf.symm.trans hs)
  exact hperf.successor hs

/-- Settles O22, register by register. -/
theorem registersAreWrittenOnlyByTheirOperations : Obligations.RegistersAreWrittenOnlyByTheirOperations := by
  intro p m n i h
  have hperf := exec_performs h
  exact ⟨hperf.keeps_ADDR_DATA, hperf.keeps_T0, hperf.keeps_SR,
    fun hne => (hperf.RESULT_cases.resolve_left hne).2, hperf.keeps_inputs⟩

/-- Settles O25: what is written to `RESULT` is the code of a result, and 7 is the code of none. -/
theorem reservedResultCodeIsNeverWritten : Obligations.ReservedResultCodeIsNeverWritten := by
  intro p m n hr h
  obtain ⟨i, _, hperf⟩ := step_performs hr h
  rcases hperf.RESULT_cases with hkeep | ⟨⟨r, hres⟩, _⟩
  · exact .inl hkeep
  · exact .inr (hres ▸ resultCode_le r)

/-- Settles O21: a reset step and every meaning answer a machine of the same parameters. -/
theorem noStepChangesTheParameters : Obligations.NoStepChangesTheParameters := by
  intro s t h
  obtain ⟨_, ⟨_, rfl⟩ | ⟨_, i, _, he⟩⟩ := step_cases h
  · rfl
  · obtain ⟨_, rfl⟩ := exec_next_params i he
    rfl

/-- Settles O28: after reset STATE is IDLE, of which the invariant asks nothing. -/
theorem resetMeetsTheOperationInvariant : Obligations.ResetMeetsTheOperationInvariant :=
  (inv_iff_progress (f := .IDLE) rfl).mpr trivial

/-- Settles O51, port by port. -/
theorem outputPortsFollowTheState : Obligations.OutputPortsFollowTheState := fun _ m =>
  ⟨m.req_ready_iff, m.rsp_valid_iff, Fwc.busy_iff, m.rsp_result_of_valid, Fwc.one_output_port_is_set⟩

end Sys2Proof.Proofs
end

section
/-! PROOF. 10_state.md section 4: what registers were left with plays no part in a step (R36, R37). -/

namespace Sys2Proof.Machine

variable {p : Params} {m n : Fwc p}

/-! ### Outcomes that go alike -/

/-- Two next states that agree, after the same transactions `es`. -/
theorem AgreeingOutcomes.of_next {tm tn : List (Event p.A p.W)} (es : List (Event p.A p.W)) (h : Agree m n)
    (hm : m.trace = es ++ tm) (hn : n.trace = es ++ tn) :
    AgreeingOutcomes p tm tn (.next ⟨p, m⟩) (.next ⟨p, n⟩) :=
  .inl ⟨m, n, es, rfl, rfl, h, hm, hn⟩

theorem AgreeingOutcomes.of_fault (tm tn : List (Event p.A p.W)) (f : Fault) :
    AgreeingOutcomes p tm tn (.fault f) (.fault f) :=
  .inr (.inl ⟨f, rfl, rfl⟩)

theorem AgreeingOutcomes.of_refused (tm tn : List (Event p.A p.W)) (r : Refusal) :
    AgreeingOutcomes p tm tn (.refused r) (.refused r) :=
  .inr (.inr ⟨r, rfl, rfl⟩)

/-- Two machines at the same input levels that read the bus both hang, or both go on with the word answered. -/
theorem agreeing_busRead {k l : Word p.W → Fwc p → Out (Fwc p)} {a b : Address p.A} (hp : m.pins = n.pins)
    (h : ∀ v, AgreeingOutcomes p m.trace n.trace (lift (k v (m.emit (.busRead a v))))
      (lift (l v (n.emit (.busRead b v))))) :
    AgreeingOutcomes p m.trace n.trace (lift (m.busRead a k)) (lift (n.busRead b l)) := by
  cases hb : n.pins.bus_rdata with
  | none =>
    rw [busRead_none (hp ▸ hb), busRead_none hb]
    exact .of_fault _ _ _
  | some v =>
    rw [busRead_some (hp ▸ hb), busRead_some hb]
    exact h v

theorem agreeing_busWrite {k l : Fwc p → Out (Fwc p)} {a b : Address p.A} {v w : Word p.W} (hp : m.pins = n.pins)
    (h : AgreeingOutcomes p m.trace n.trace (lift (k (m.emit (.busWrite a v)))) (lift (l (n.emit (.busWrite b w))))) :
    AgreeingOutcomes p m.trace n.trace (lift (m.busWrite a v k)) (lift (n.busWrite b w l)) := by
  cases hb : n.pins.bus_rdata with
  | none =>
    rw [busWrite_none (hp ▸ hb), busWrite_none hb]
    exact .of_fault _ _ _
  | some _ =>
    rw [busWrite_some (by simp [hp, hb]), busWrite_some (by simp [hb])]
    exact h

theorem agreeing_timeRead {k l : Time → Fwc p → Out (Fwc p)} (hp : m.pins = n.pins)
    (h : ∀ t, AgreeingOutcomes p m.trace n.trace (lift (k t (m.emit (.time t)))) (lift (l t (n.emit (.time t))))) :
    AgreeingOutcomes p m.trace n.trace (lift (m.timeRead k)) (lift (n.timeRead l)) := by
  cases ht : n.pins.time_now with
  | none =>
    rw [timeRead_none (hp ▸ ht), timeRead_none ht]
    exact .of_fault _ _ _
  | some t =>
    rw [timeRead_some (hp ▸ ht), timeRead_some ht]
    exact h t

/-! ### Updates that keep the agreement -/

theorem Agree.nextInputs_eq (h : Agree m n) : m.nextInputs = n.nextInputs := by
  rw [Fwc.nextInputs, Fwc.nextInputs, h.env, h.draws]

theorem Agree.sample (h : Agree m n) : Agree m.sample n.sample :=
  { h with env := congrArg List.tail h.env, draws := congrArg (· + 1) h.draws }

/-- Equal draw counts make the free values equal that reset leaves. -/
theorem Agree.resetStep (h : Agree m n) : Agree m.resetStep n.resetStep where
  state := rfl
  env := h.env
  draws := h.draws
  held _ := by simp [Fwc.held, Fwc.resetStep, h.draws]
  t0 _ := by simp [Fwc.resetStep, h.draws]
  result _ := by simp [Fwc.resetStep, h.draws]

theorem Agree.emit (h : Agree m n) (e e' : Event p.A p.W) : Agree (m.emit e) (n.emit e') := { h with }

theorem Agree.latch (h : Agree m n) (q : Req p.A p.W) : Agree (m.latch q) (n.latch q) := { h with held := fun _ => rfl }

theorem Agree.setT0 (h : Agree m n) (t : Time) : Agree (m.setT0 t) (n.setT0 t) := { h with t0 := fun _ => rfl }

theorem Agree.setSR (h : Agree m n) (sr : Word p.W) : Agree (m.setSR sr) (n.setSR sr) := { h with }

/-- Going to the state `f` asks agreement of the registers that a step from `f` on will still read. -/
theorem Agree.goto {f : FsmState} (h : Agree m n) (held : f ∉ [.IDLE, .RST, .DONE] → m.held = n.held)
    (t0 : f ∈ [.CMD, .DATA, .POLL, .TCHK] → m.T0 = n.T0) (result : f ∈ [.RST, .DONE] → m.RESULT = n.RESULT) :
    Agree (m.goto f) (n.goto f) where
  state := rfl
  env := h.env
  draws := h.draws
  held hf := held (by simpa using hf)
  t0 hf := t0 (by simpa using hf)
  result hf := result (by simpa using hf)

/-- On the way into RST or DONE a result is selected, and no other register will be read. -/
theorem Agree.select {f : FsmState} (h : Agree m n) (r : OpResult) (hf : f = .RST ∨ f = .DONE) :
    Agree (m.select r f) (n.select r f) where
  state := rfl
  env := h.env
  draws := h.draws
  held hg := by rcases hf with rfl | rfl <;> simp at hg
  t0 hg := by rcases hf with rfl | rfl <;> simp at hg
  result _ := rfl

theorem Agree.statusBranch (h : Agree m n) (hs : m.STATE = FsmState.POLL.code) (sr : Word p.W) :
    Agree (statusBranch sr m) (statusBranch sr n) := by
  have hheld : m.held = n.held := h.held (by simp [hs])
  have ht0 : m.T0 = n.T0 := h.t0 (by simp [hs])
  unfold Machine.statusBranch
  split
  · split
    · exact h.goto (fun _ => hheld) (fun _ => ht0) (by simp)
    · exact h.select _ (.inl rfl)
  · exact h.goto (fun _ => hheld) (fun _ => ht0) (by simp)

theorem Agree.timeBranch (h : Agree m n) (hs : m.STATE = FsmState.TCHK.code) (t : Time) :
    Agree (timeBranch t m) (timeBranch t n) := by
  have hheld : m.held = n.held := h.held (by simp [hs])
  have ht0 : m.T0 = n.T0 := h.t0 (by simp [hs])
  unfold Machine.timeBranch
  rw [ht0]
  split
  · exact h.select _ (.inr rfl)
  · exact h.goto (fun _ => hheld) (fun _ => ht0) (by simp)

theorem Agree.readbackBranch (h : Agree m n) (hs : m.STATE = FsmState.RB.code) (rb : Word p.W) :
    Agree (readbackBranch rb m) (readbackBranch rb n) := by
  have hdata : m.DATA = n.DATA := congrArg Req.value (h.held (by simp [hs]))
  unfold Machine.readbackBranch
  rw [hdata]
  exact h.select _ (.inr rfl)

@[simp] theorem statusBranch_trace (sr : Word p.W) (m : Fwc p) : (statusBranch sr m).trace = m.trace := by
  rcases statusBranch_cases sr m with ⟨_, h⟩ | ⟨_, _, h⟩ | ⟨_, _, _, h⟩ <;> rw [h] <;> rfl

@[simp] theorem timeBranch_trace (t : Time) (m : Fwc p) : (timeBranch t m).trace = m.trace := by
  rcases timeBranch_cases t m with ⟨_, h⟩ | ⟨_, h⟩ <;> rw [h] <;> rfl

/-! ### One operation, and one step -/

section
variable (h : Agree m n) (hp : m.pins = n.pins)
include h hp

theorem agreeing_accept :
    AgreeingOutcomes p m.trace n.trace (exec .accept ⟨p, m⟩) (exec .accept ⟨p, n⟩) := by
  have hready : n.req_ready = m.req_ready := by rw [Fwc.req_ready, Fwc.req_ready, h.state]
  simp only [exec, execAccept, hready, ← hp]
  split
  · exact .of_next [_] (((h.emit _ _).latch _).goto (fun _ => rfl) (by simp) (by simp)) rfl rfl
  · exact .of_next [] h rfl rfl

theorem agreeing_timeStart (hs : m.STATE = FsmState.TSTART.code) :
    AgreeingOutcomes p m.trace n.trace (exec .timeStart ⟨p, m⟩) (exec .timeStart ⟨p, n⟩) := by
  have hheld : m.held = n.held := h.held (by simp [hs])
  exact agreeing_timeRead hp fun t =>
    .of_next [.time t] (((h.emit _ _).setT0 t).goto (fun _ => hheld) (fun _ => rfl) (by simp)) rfl rfl

theorem agreeing_cmdProgram (hs : m.STATE = FsmState.CMD.code) :
    AgreeingOutcomes p m.trace n.trace (exec .cmdProgram ⟨p, m⟩) (exec .cmdProgram ⟨p, n⟩) := by
  have hheld : m.held = n.held := h.held (by simp [hs])
  have ht0 : m.T0 = n.T0 := h.t0 (by simp [hs])
  exact agreeing_busWrite hp
    (.of_next [_] ((h.emit _ _).goto (fun _ => hheld) (fun _ => ht0) (by simp)) rfl rfl)

theorem agreeing_dataWrite (hs : m.STATE = FsmState.DATA.code) :
    AgreeingOutcomes p m.trace n.trace (exec .dataWrite ⟨p, m⟩) (exec .dataWrite ⟨p, n⟩) := by
  have hheld : m.held = n.held := h.held (by simp [hs])
  have ht0 : m.T0 = n.T0 := h.t0 (by simp [hs])
  obtain ⟨haddr, hdata⟩ := Req.mk.inj hheld
  exact agreeing_busWrite hp (.of_next [.busWrite m.ADDR m.DATA]
    ((h.emit _ _).goto (fun _ => hheld) (fun _ => ht0) (by simp)) rfl (by simp [haddr, hdata]))

theorem agreeing_statusRead (hs : m.STATE = FsmState.POLL.code) :
    AgreeingOutcomes p m.trace n.trace (exec .statusRead ⟨p, m⟩) (exec .statusRead ⟨p, n⟩) :=
  agreeing_busRead hp fun sr => .of_next [statusLine p sr] (((h.emit _ _).setSR sr).statusBranch hs sr)
    (statusBranch_trace sr _) (statusBranch_trace sr _)

theorem agreeing_timeCheck (hs : m.STATE = FsmState.TCHK.code) :
    AgreeingOutcomes p m.trace n.trace (exec .timeCheck ⟨p, m⟩) (exec .timeCheck ⟨p, n⟩) :=
  agreeing_timeRead hp fun t => .of_next [.time t] ((h.emit _ _).timeBranch hs t) (timeBranch_trace t _)
    (timeBranch_trace t _)

theorem agreeing_cmdReset (hs : m.STATE = FsmState.RST.code) :
    AgreeingOutcomes p m.trace n.trace (exec .cmdReset ⟨p, m⟩) (exec .cmdReset ⟨p, n⟩) := by
  have hres : m.RESULT = n.RESULT := h.result (by simp [hs])
  exact agreeing_busWrite hp (.of_next [_] ((h.emit _ _).goto (by simp) (by simp) (fun _ => hres)) rfl rfl)

theorem agreeing_readback (hs : m.STATE = FsmState.RB.code) :
    AgreeingOutcomes p m.trace n.trace (exec .readback ⟨p, m⟩) (exec .readback ⟨p, n⟩) := by
  have haddr : m.ADDR = n.ADDR := congrArg Req.address (h.held (by simp [hs]))
  exact agreeing_busRead hp fun rb => .of_next [.busRead m.ADDR rb] ((h.emit _ _).readbackBranch hs rb) rfl
    (by simp [readbackBranch, haddr])

theorem agreeing_respond (hs : m.STATE = FsmState.DONE.code) :
    AgreeingOutcomes p m.trace n.trace (exec .respond ⟨p, m⟩) (exec .respond ⟨p, n⟩) := by
  have hm : m.rsp_valid = true := m.rsp_valid_iff.mpr hs
  have hn : n.rsp_valid = true := n.rsp_valid_iff.mpr (h.state.symm.trans hs)
  have hres : m.RESULT = n.RESULT := h.result (by simp [hs])
  simp only [exec, execRespond, hm, hn, Fwc.rsp_result_of_valid, ← hp, ← hres]
  split
  · split
    · exact .of_fault _ _ _
    · exact .of_next [_] ((h.emit _ _).goto (by simp) (by simp) (by simp)) rfl rfl
  · exact .of_next [] h rfl rfl

/-- R20's column "read by", operation by operation: what an operation reads, the two machines agree on. -/
theorem agreeing_exec {i : Instr} (hs : m.STATE = i.performedIn.code) :
    AgreeingOutcomes p m.trace n.trace (exec i ⟨p, m⟩) (exec i ⟨p, n⟩) := by
  cases i with
  | accept => exact agreeing_accept h hp
  | timeStart => exact agreeing_timeStart h hp hs
  | cmdProgram => exact agreeing_cmdProgram h hp hs
  | dataWrite => exact agreeing_dataWrite h hp hs
  | statusRead => exact agreeing_statusRead h hp hs
  | timeCheck => exact agreeing_timeCheck h hp hs
  | cmdReset => exact agreeing_cmdReset h hp hs
  | readback => exact agreeing_readback h hp hs
  | respond => exact agreeing_respond h hp hs

theorem agreeing_runSampled :
    AgreeingOutcomes p m.trace n.trace (runSampled ⟨p, m⟩) (runSampled ⟨p, n⟩) := by
  simp only [runSampled, ← hp, ← h.state]
  split
  · exact .of_next [] h.resetStep rfl rfl
  · split
    · next hi => exact agreeing_exec h hp (decode_eq_ok.mp hi)
    · exact .of_fault _ _ _

end

end Sys2Proof.Machine

namespace Sys2Proof.Proofs

open Sys2Proof.Machine

/-- Settles O32: sampling keeps the agreement and makes the input levels equal; from there operation by operation. -/
theorem leftoverRegistersDoNotMatterToAStep : Obligations.LeftoverRegistersDoNotMatterToAStep := by
  intro p m n h
  by_cases hw : p.WellFormed
  · rw [step_of_wellFormed hw, step_of_wellFormed hw]
    exact agreeing_runSampled h.sample h.nextInputs_eq
  · rw [step_of_not_wellFormed hw, step_of_not_wellFormed hw]
    exact .of_refused _ _ _

end Sys2Proof.Proofs
end

section
/-! PROOF. 20_memory.md: the transactions a step may add to the trace (R51), one at most (R11). -/

namespace Sys2Proof.Machine

variable {p : Params} {m n : Fwc p} {i : Instr}

/-- The transaction is one that the FWC performs in the state of `m`: for the bus a row of R51, for the time port R210,
for the host's ports R100 and R105. -/
def Fwc.MayIssue (m : Fwc p) : Event p.A p.W → Prop
  | .request _  => m.STATE = FsmState.IDLE.code
  | .time _     => m.STATE = FsmState.TSTART.code ∨ m.STATE = FsmState.TCHK.code
  | .bus tx     => AllowedAccess m tx
  | .response _ => m.STATE = FsmState.DONE.code

/-- Each path of an operation waits, or performs one transaction, listed for the operation's state. -/
theorem Fwc.Performs.trace_cases (h : m.Performs i n) (hs : m.STATE = i.performedIn.code) :
    n.trace = m.trace ∨ ∃ e, n.trace = e :: m.trace ∧ m.MayIssue e := by
  cases h with
  | acceptWaits | respondWaits => exact .inl rfl
  | accept | respond => exact .inr ⟨_, rfl, hs⟩
  | timeStart => exact .inr ⟨_, rfl, .inl hs⟩
  | timeLeft | timeOut => exact .inr ⟨_, rfl, .inr hs⟩
  | cmdProgram => exact .inr ⟨_, rfl, .inl ⟨hs, rfl⟩⟩
  | dataWrite => exact .inr ⟨_, rfl, .inr (.inl ⟨hs, rfl⟩)⟩
  | statusNotReady | statusClean | statusError => exact .inr ⟨_, rfl, .inr (.inr (.inl ⟨hs, rfl, rfl⟩))⟩
  | cmdReset => exact .inr ⟨_, rfl, .inr (.inr (.inr (.inl ⟨hs, rfl⟩)))⟩
  | readback => exact .inr ⟨_, rfl, .inr (.inr (.inr (.inr ⟨hs, rfl, rfl⟩)))⟩

/-- Sampling changes no register, so the sampled machine may issue what the machine may. -/
theorem Fwc.mayIssue_sample (e : Event p.A p.W) : m.sample.MayIssue e ↔ m.MayIssue e := by
  cases e <;> rfl

/-- A reset step performs no transaction (R230); every other step those of the operation that `STATE` selects. -/
theorem step_trace_cases (h : step ⟨p, m⟩ = .next ⟨p, n⟩) :
    n.trace = m.trace ∨ ∃ e, n.trace = e :: m.trace ∧ m.MayIssue e := by
  obtain ⟨_, ⟨_, hn⟩ | ⟨_, i, hs, he⟩⟩ := step_cases h
  · cases hn
    exact .inl rfl
  · simpa only [Fwc.mayIssue_sample, Fwc.sample_trace] using (exec_performs he).trace_cases hs

end Sys2Proof.Machine

namespace Sys2Proof.Proofs

open Sys2Proof.Machine

/-- Settles O23: of the transactions a step may issue, those of the bus are the rows of R51. -/
theorem stepsIssueOnlyTheListedAccesses : Obligations.StepsIssueOnlyTheListedAccesses := by
  intro p m n h
  rcases step_trace_cases h with hkeep | ⟨e, htrace, hissue⟩
  · exact .inl hkeep
  · refine .inr ⟨e, htrace, ?_⟩
    rintro tx rfl
    exact hissue

end Sys2Proof.Proofs
end

section
/-! PROOF. 30_encoding.md: the codes of `STATE` (R85, R86) and of the results (R80), the packed records (R70, R74), and
the masks of a Status Word (R78). -/

namespace Sys2Proof

/-! ### Codes (R80, R85, R86) -/

@[simp] theorem decode_encode (i : Instr) : decode (encode i) = .ok i := Machine.decode_eq_ok.mpr rfl

theorem encode_of_decode {c : StateCode} {i : Instr} (h : decode c = .ok i) : encode i = c :=
  (Machine.decode_eq_ok.mp h).symm

theorem decode_of_nine_le {c : StateCode} (h : 9 ≤ c.toNat) : decode c = .error (.unusedStateCode c) := by
  revert c
  decide

@[simp] theorem decodeResult_code (r : OpResult) : decodeResult r.code = some r := by cases r <;> rfl

/-! ### Requests (R70, R71) -/

@[simp] theorem unpackReq_packReq {A W : Nat} (q : Req A W) : unpackReq (packReq q) = q := by
  simp [unpackReq, packReq, BitVec.extractLsb'_append_eq_left, BitVec.extractLsb'_append_eq_right]

@[simp] theorem packReq_unpackReq {A W : Nat} (b : BitVec (A + W)) : packReq (unpackReq b) = b :=
  BitVec.extractLsb'_append_extractLsb'

/-! ### Bus transaction records (R74) -/

/-- The `op` that the one-bit field `b` stands for, as `unpackTx` reads it. -/
def opOfBit (b : BitVec 1) : BusOp := if b = 1#1 then .write else .read

@[simp] theorem opOfBit_bit (op : BusOp) : opOfBit op.bit = op := by cases op <;> rfl

@[simp] theorem bit_opOfBit (b : BitVec 1) : (opOfBit b).bit = b := by
  revert b
  decide

theorem busOp_bit_getLsbD (op : BusOp) : op.bit.getLsbD 0 = true ↔ op = .write := by cases op <;> decide

theorem unpackTx_eq {A W : Nat} (b : BitVec (1 + A + W)) :
    (unpackTx b : BusTx A W) = ⟨opOfBit (b.extractLsb' (A + W) 1), b.extractLsb' W A, b.extractLsb' 0 W⟩ := rfl

section
variable {A W : Nat} (x : BusTx A W)

/-- The part of a packed record above the data is `op` and address. -/
theorem packTx_extract_above (start len : Nat) :
    (packTx x).extractLsb' (start + W) len = (x.op.bit ++ x.addr).extractLsb' start len := by
  rw [packTx, BitVec.extractLsb'_append_eq_of_le (Nat.le_add_left W start), Nat.add_sub_cancel]

theorem packTx_extract_op : (packTx x).extractLsb' (A + W) 1 = x.op.bit := by
  rw [packTx_extract_above, BitVec.extractLsb'_append_eq_left]

theorem packTx_extract_addr : (packTx x).extractLsb' W A = x.addr := by
  simpa using (packTx_extract_above x 0 A).trans BitVec.extractLsb'_append_eq_right

theorem packTx_extract_data : (packTx x).extractLsb' 0 W = x.data := BitVec.extractLsb'_append_eq_right

@[simp] theorem unpackTx_packTx : unpackTx (packTx x) = x := by
  rw [unpackTx_eq, packTx_extract_op, packTx_extract_addr, packTx_extract_data, opOfBit_bit]

theorem packTx_getLsbD_top : (packTx x).getLsbD (A + W) = true ↔ x.op = .write := by
  rw [← busOp_bit_getLsbD, ← packTx_extract_op x, BitVec.getLsbD_extractLsb']
  simp

/-- The three fields are adjacent slices that cover the pattern. -/
@[simp] theorem packTx_unpackTx (b : BitVec (1 + A + W)) : packTx (unpackTx b : BusTx A W) = b := by
  calc packTx (unpackTx b : BusTx A W)
    _ = (b.extractLsb' (A + W) 1 ++ b.extractLsb' W A) ++ b.extractLsb' 0 W := by
      rw [unpackTx_eq, packTx, bit_opOfBit]
    _ = b.extractLsb' W (1 + A) ++ b.extractLsb' 0 W := by
      rw [BitVec.extractLsb'_append_extractLsb'_eq_extractLsb' (Nat.add_comm A W)]
    _ = b := BitVec.extractLsb'_append_extractLsb'

end

end Sys2Proof

namespace Sys2Proof.Machine

variable {p : Params} {m : Fwc p}

/-! ### Steps and unused state codes (R86) -/

theorem step_of_unused_code (hp : p.WellFormed) (hr : m.nextInputs.rst = false) (hs : 9 ≤ m.STATE.toNat) :
    step ⟨p, m⟩ = .fault (.unusedStateCode m.STATE) := by
  rw [step_of_wellFormed hp]
  simp [runSampled, hr, decode_of_nine_le hs]

/-- A reset step ends in IDLE, and every path of every operation in a state of R26. -/
theorem step_next_STATE {t : State} (h : step ⟨p, m⟩ = .next t) : ∃ f : FsmState, t.fwc.STATE = f.code := by
  obtain ⟨_, ⟨_, rfl⟩ | ⟨_, i, hs, he⟩⟩ := step_cases h
  · exact ⟨.IDLE, rfl⟩
  · obtain ⟨n, rfl, hperf⟩ := exec_next_performs he
    obtain ⟨f, hf, _⟩ := hperf.successor hs
    exact ⟨f, hf⟩

/-! ### Masks (R78) -/

theorem getLsbD_bit {W i : Nat} (pos : Nat) (hi : i < W) : (bit W pos).getLsbD i = decide (i = pos) := by
  rw [bit, ← BitVec.twoPow_eq, BitVec.getLsbD_twoPow]
  by_cases h : i = pos
  · subst h
    simp [hi]
  · simp [h, Ne.symm h]

/-- M_NAMED is the set of the eight positions of R5. -/
theorem mNamed_getLsbD {i : Nat} (hi : i < p.W) : (mNamed p).getLsbD i = decide (i ∈ p.positions) := by
  simp only [mNamed, mReady, mVpp, mProg, mBp, mOther, BitVec.getLsbD_or, getLsbD_bit _ hi]
  simp only [Params.positions, List.mem_cons, List.not_mem_nil, or_false, Bool.decide_or]
  ac_rfl

theorem mUnnamed_getLsbD {i : Nat} (hi : i < p.W) : (mUnnamed p).getLsbD i = !(mNamed p).getLsbD i := by
  simp [mUnnamed, hi]

/-- The positions differ and lie below `W`, so the set bits of M_NAMED, listed upwards, are a rearrangement of them. -/
theorem mNamed_bits_perm (hp : p.WellFormed) :
    ((List.range p.W).filter fun i => (mNamed p).getLsbD i).Perm p.positions := by
  obtain ⟨_, _, hnodup, hlt, _⟩ := hp
  refine (List.perm_ext_iff_of_nodup (List.nodup_range.filter _) hnodup).mpr fun i => ?_
  rw [List.mem_filter, List.mem_range]
  constructor
  · rintro ⟨hi, hbit⟩
    simpa [mNamed_getLsbD hi] using hbit
  · intro hmem
    exact ⟨hlt i hmem, by simpa [mNamed_getLsbD (hlt i hmem)] using hmem⟩

theorem mNamed_bits_length (hp : p.WellFormed) :
    ((List.range p.W).filter fun i => (mNamed p).getLsbD i).length = 8 :=
  (mNamed_bits_perm hp).length_eq

/-- A bit of the word is in exactly one of M_NAMED and M_UNNAMED. -/
theorem mUnnamed_bits_length (hp : p.WellFormed) :
    ((List.range p.W).filter fun i => (mUnnamed p).getLsbD i).length = p.W - 8 := by
  have hsplit := List.length_eq_length_filter_add (l := List.range p.W) fun i => (mNamed p).getLsbD i
  have hcongr : ((List.range p.W).filter fun i => (mUnnamed p).getLsbD i) =
      (List.range p.W).filter fun i => !(mNamed p).getLsbD i :=
    List.filter_congr fun i hi => mUnnamed_getLsbD (List.mem_range.mp hi)
  rw [List.length_range, mNamed_bits_length hp, ← hcongr] at hsplit
  omega

theorem mUnnamed_eq_zero (hp : p.WellFormed) (hW : p.W = 8) : mUnnamed p = 0#p.W := by
  have hnil : ((List.range p.W).filter fun i => (mUnnamed p).getLsbD i) = [] :=
    List.eq_nil_of_length_eq_zero (by rw [mUnnamed_bits_length hp, hW])
  refine BitVec.eq_of_getLsbD_eq fun i hi => ?_
  simpa using List.filter_eq_nil_iff.mp hnil i (List.mem_range.mpr hi)

/-- R161: with no unnamed bit, Classify's branch on the unnamed bits is never taken. -/
theorem classify_unnamedBitsAreErrors (h : mUnnamed p = 0#p.W) (sr : Word p.W) (b : Bool) :
    classify { p with unnamedBitsAreErrors := b } sr = classify p sr := by
  have hnone : anySet sr (mUnnamed p) = false := by simp [anySet, h]
  have hnone' : anySet sr (mUnnamed { p with unnamedBitsAreErrors := b }) = false := hnone
  simp only [classify, hnone, hnone', Bool.and_false]
  rfl

end Sys2Proof.Machine

namespace Sys2Proof.Proofs

open Sys2Proof.Machine

/-- Settles O18: an unused code decodes to no operation, and what a step writes to `STATE` is the code of a state. -/
theorem unusedStateCodesAreStuckAndNeverWritten : Obligations.UnusedStateCodesAreStuckAndNeverWritten := by
  refine ⟨fun _ _ => step_of_unused_code, fun s t h => ?_⟩
  obtain ⟨f, hf⟩ := step_next_STATE h
  exact hf ▸ stateCode_le f

/-- Settles O42: the set bits of M_NAMED are the eight positions, M_UNNAMED is its complement, empty for `W = 8`. -/
theorem namedMaskHasEightBits : Obligations.NamedMaskHasEightBits := fun _ hp =>
  ⟨mNamed_bits_length hp, mUnnamed_bits_length hp, fun hW => classify_unnamedBitsAreErrors (mUnnamed_eq_zero hp hW)⟩

/-- Settles O49. -/
theorem requestPackingIsABijection : Obligations.RequestPackingIsABijection := fun _ _ =>
  ⟨unpackReq_packReq, packReq_unpackReq⟩

/-- Settles O50. -/
theorem transactionPackingIsABijection : Obligations.TransactionPackingIsABijection := fun _ _ =>
  ⟨unpackTx_packTx, packTx_unpackTx, packTx_getLsbD_top⟩

/-- Settles O43, by evaluating the masks at the one parameter set. -/
theorem masksAtTheTakenParameters : Obligations.MasksAtTheTakenParameters := by
  unfold Obligations.MasksAtTheTakenParameters
  decide

/-- Settles O46. -/
theorem stateCodesDecodeAndEncodeAgree : Obligations.StateCodesDecodeAndEncodeAgree :=
  ⟨decode_encode, fun _ _ => encode_of_decode, fun _ => decode_of_nine_le⟩

/-- Settles O47: each code written out is the code of its operation. -/
theorem stateCodesSelectTheirOperations : Obligations.StateCodesSelectTheirOperations :=
  ⟨decode_encode .accept, decode_encode .timeStart, decode_encode .cmdProgram, decode_encode .dataWrite,
    decode_encode .statusRead, decode_encode .timeCheck, decode_encode .cmdReset, decode_encode .readback,
    decode_encode .respond⟩

/-- Settles O48: the order is the table of codes, and every code names its result back. -/
theorem resultCodesAreTheSourcesOrder : Obligations.ResultCodesAreTheSourcesOrder :=
  ⟨rfl, decodeResult_code, rfl⟩

end Sys2Proof.Proofs
end

section
/-! PROOF. 40_request.md: ACCEPT and RESPOND, in IDLE and in DONE (R100 to R106), and the operation that a response ends
(R103). -/

namespace Sys2Proof.Machine

variable {p : Params} {m n : Fwc p} {i : Instr}

/-! ### ACCEPT and RESPOND, path by path -/

theorem exec_accept_of_request (hs : m.STATE = FsmState.IDLE.code) (hv : m.pins.req_valid = true) :
    exec .accept ⟨p, m⟩ = .next ⟨p, ((m.emit (.request ⟨m.pins.req_addr, m.pins.req_value⟩)).latch
      ⟨m.pins.req_addr, m.pins.req_value⟩).goto .TSTART⟩ := by
  simp [exec, execAccept, m.req_ready_iff.mpr hs, hv]

theorem exec_accept_waits (hw : ¬ (m.STATE = FsmState.IDLE.code ∧ m.pins.req_valid = true)) :
    exec .accept ⟨p, m⟩ = .next ⟨p, m⟩ := by
  simp only [exec, execAccept, Bool.and_eq_true, Fwc.req_ready_iff, if_neg hw]

theorem exec_respond_delivers (hs : m.STATE = FsmState.DONE.code) (hr : m.pins.rsp_ready = true)
    (hres : m.RESULT ≠ reservedResult) :
    exec .respond ⟨p, m⟩ = .next ⟨p, (m.emit (.response m.RESULT)).goto .IDLE⟩ := by
  have hv : m.rsp_valid = true := m.rsp_valid_iff.mpr hs
  simp [exec, execRespond, hv, hr, m.rsp_result_of_valid hv, hres]

theorem exec_respond_of_reserved (hs : m.STATE = FsmState.DONE.code) (hr : m.pins.rsp_ready = true)
    (hres : m.RESULT = reservedResult) : exec .respond ⟨p, m⟩ = .fault .reservedResultCode := by
  have hv : m.rsp_valid = true := m.rsp_valid_iff.mpr hs
  simp [exec, execRespond, hv, hr, m.rsp_result_of_valid hv, hres]

theorem exec_respond_waits (hw : ¬ (m.STATE = FsmState.DONE.code ∧ m.pins.rsp_ready = true)) :
    exec .respond ⟨p, m⟩ = .next ⟨p, m⟩ := by
  simp only [exec, execRespond, Bool.and_eq_true, Fwc.rsp_valid_iff, if_neg hw]

/-! ### Steps in IDLE and in DONE -/

theorem step_in_IDLE (hp : p.WellFormed) (hs : m.STATE = FsmState.IDLE.code) (hr : m.nextInputs.rst = false) :
    step ⟨p, m⟩ = exec .accept ⟨p, m.sample⟩ :=
  step_of_decode hp hr (decode_eq_ok.mpr hs)

theorem step_in_DONE (hp : p.WellFormed) (hs : m.STATE = FsmState.DONE.code) (hr : m.nextInputs.rst = false) :
    step ⟨p, m⟩ = exec .respond ⟨p, m.sample⟩ :=
  step_of_decode hp hr (decode_eq_ok.mpr hs)

/-- R102. -/
theorem step_waits_in_IDLE (hp : p.WellFormed) (hs : m.STATE = FsmState.IDLE.code) (hr : m.nextInputs.rst = false)
    (hv : m.nextInputs.req_valid = false) : step ⟨p, m⟩ = .next ⟨p, m.sample⟩ := by
  rw [step_in_IDLE hp hs hr]
  exact exec_accept_waits (by simp [hv])

/-- R106. -/
theorem step_waits_in_DONE (hp : p.WellFormed) (hs : m.STATE = FsmState.DONE.code) (hr : m.nextInputs.rst = false)
    (hv : m.nextInputs.rsp_ready = false) : step ⟨p, m⟩ = .next ⟨p, m.sample⟩ := by
  rw [step_in_DONE hp hs hr]
  exact exec_respond_waits (by simp [hv])

theorem Fwc.req_ready_eq_false (h : m.STATE ≠ FsmState.IDLE.code) : m.req_ready = false := by
  simp [Fwc.req_ready, h]

/-! ### Responses -/

/-- Of all paths only that of RESPOND gives a response, and it gives what `RESULT` holds. -/
theorem Fwc.Performs.response {c : ResultCode} (h : m.Performs i n) (ht : n.trace = .response c :: m.trace) :
    m.STATE = FsmState.DONE.code ∧ m.RESULT = c := by
  cases h with
  | respond hs _ _ =>
    have hc : Event.response m.RESULT = .response c := (List.cons.inj ht).1
    exact ⟨hs, Event.response.inj hc⟩
  | acceptWaits | respondWaits => exact absurd ht.symm (List.cons_ne_self _ _)
  | accept | timeStart | cmdProgram | dataWrite | statusNotReady | statusClean | statusError | timeLeft | timeOut
  | cmdReset | readback => cases (List.cons.inj ht).1

theorem step_response {c : ResultCode} (h : step ⟨p, m⟩ = .next ⟨p, n⟩) (ht : n.trace = .response c :: m.trace) :
    m.STATE = FsmState.DONE.code ∧ m.RESULT = c := by
  obtain ⟨_, ⟨_, hn⟩ | ⟨_, i, _, he⟩⟩ := step_cases h
  · cases hn
    exact absurd ht.symm (List.cons_ne_self _ _)
  · exact (exec_performs he).response ht

end Sys2Proof.Machine

namespace Sys2Proof.Proofs

open Sys2Proof.Machine

/-- Settles O1. -/
theorem acceptLatchesTheRequest : Obligations.AcceptLatchesTheRequest := fun _ _ => exec_accept_of_request

/-- Settles O2: either premise shuts out the one path on which ACCEPT does anything. -/
theorem acceptWithoutRequestChangesNothing : Obligations.AcceptWithoutRequestChangesNothing := by
  rintro p m (hv | hs)
  · exact exec_accept_waits (by simp [hv])
  · exact exec_accept_waits (by simp [hs])

/-- Settles O10: a result's code is not the reserved one, so its response is delivered. -/
theorem respondDeliversTheResult : Obligations.RespondDeliversTheResult := by
  intro p m
  refine ⟨fun r hs hr hres => ?_, fun hr => ?_, fun hs => ?_⟩
  · rw [← hres]
    exact exec_respond_delivers hs hr (hres ▸ resultCode_ne_reserved r)
  · exact exec_respond_waits (by simp [hr])
  · exact exec_respond_waits (by simp [hs])

/-- Settles O11: with neither reset nor `rsp_ready` the next state is the sampled one, still in DONE. -/
theorem doneIsHeldUntilTheResponseIsTaken : Obligations.DoneIsHeldUntilTheResponseIsTaken := by
  intro p m hp hs
  have hvalid : m.rsp_valid = true := m.rsp_valid_iff.mpr hs
  refine ⟨step_waits_in_DONE hp hs, hvalid, m.rsp_result_of_valid hvalid, ?_, fun n h hleft => ?_⟩
  · exact Fwc.req_ready_eq_false (by simp [hs])
  · by_contra hneither
    obtain ⟨hr, hv⟩ : m.nextInputs.rst = false ∧ m.nextInputs.rsp_ready = false := by simpa using hneither
    rw [step_waits_in_DONE hp hs hr hv] at h
    cases h
    exact hleft hs

/-- Settles O12. -/
theorem idleWaitsForARequest : Obligations.IdleWaitsForARequest := fun _ _ => step_waits_in_IDLE

/-- Settles O30: a response is given in DONE, where the invariant says what the operation was. -/
theorem everyOperationHasOneOfFourShapes : Obligations.EveryOperationHasOneOfFourShapes := by
  intro p m n c hm h ht
  obtain ⟨hs, rfl⟩ := step_response h ht
  exact hm.done hs

end Sys2Proof.Proofs
end

section
/-! PROOF. 40_request.md: what a step does not read. The request ports play no part off IDLE (R101), and the draw count
none within the schedule (R107). -/

namespace Sys2Proof.Machine

variable {p : Params}

/-- The FWC with the input levels `x` sampled and the draw count `c`. -/
def Fwc.withInputs (m : Fwc p) (x : Inputs p) (c : Nat) : Fwc p := { m with pins := x, draws := c }

/-- The levels differ at the request ports only. -/
structure Inputs.AgreeOffRequest (x y : Inputs p) : Prop where
  rst       : x.rst = y.rst
  rsp_ready : x.rsp_ready = y.rsp_ready
  bus_rdata : x.bus_rdata = y.bus_rdata
  time_now  : x.time_now = y.time_now

/-- The outcomes are the same but for the sampled levels and draw counts `x`, `c` and `y`, `d`, which the two next states
hold. -/
def SameButInputs (x : Inputs p) (c : Nat) (y : Inputs p) (d : Nat) (a b : Host.Outcome State Fault Refusal) : Prop :=
  (∃ n : Fwc p, a = .next ⟨p, n.withInputs x c⟩ ∧ b = .next ⟨p, n.withInputs y d⟩) ∨ (∃ f, a = .fault f ∧ b = .fault f)

/-- The update neither reads nor writes the sampled levels and the draw count. -/
def IgnoresInputs (g : Fwc p → Fwc p) : Prop := ∀ m x c, g (m.withInputs x c) = (g m).withInputs x c

theorem statusBranch_ignoresInputs (sr : Word p.W) : IgnoresInputs (p := p) (statusBranch sr) := by
  intro m x c
  unfold statusBranch
  split
  · split <;> rfl
  · rfl

theorem timeBranch_ignoresInputs (t : Time) : IgnoresInputs (p := p) (timeBranch t) := by
  intro m x c
  have hT0 : (m.withInputs x c).T0 = m.T0 := rfl
  cases ho : timedOut p m.T0 t <;> simp only [timeBranch, hT0, ho] <;> rfl

section
variable {m : Fwc p} {x y : Inputs p} {c d : Nat}

theorem SameButInputs.of_next {g : Fwc p → Fwc p} (hg : IgnoresInputs g) :
    SameButInputs x c y d (.next ⟨p, g (m.withInputs x c)⟩) (.next ⟨p, g (m.withInputs y d)⟩) :=
  .inl ⟨g m, by rw [hg], by rw [hg]⟩

theorem SameButInputs.of_fault (f : Fault) : SameButInputs x c y d (.fault f) (.fault f) := .inr ⟨f, rfl, rfl⟩

theorem sameButInputs_busRead {a : Address p.A} {g : Word p.W → Fwc p → Fwc p} (hxy : x.bus_rdata = y.bus_rdata)
    (hg : ∀ v, IgnoresInputs (g v)) :
    SameButInputs x c y d (lift ((m.withInputs x c).busRead a fun v n => .next (g v n)))
      (lift ((m.withInputs y d).busRead a fun v n => .next (g v n))) := by
  cases hb : y.bus_rdata with
  | none =>
    rw [busRead_none (hxy.trans hb), busRead_none hb]
    exact .of_fault _
  | some v =>
    rw [busRead_some (hxy.trans hb), busRead_some hb]
    exact .of_next (m := m.emit (.busRead a v)) (hg v)

theorem sameButInputs_busWrite {a : Address p.A} {v : Word p.W} {g : Fwc p → Fwc p} (hxy : x.bus_rdata = y.bus_rdata)
    (hg : IgnoresInputs g) :
    SameButInputs x c y d (lift ((m.withInputs x c).busWrite a v fun n => .next (g n)))
      (lift ((m.withInputs y d).busWrite a v fun n => .next (g n))) := by
  cases hb : y.bus_rdata with
  | none =>
    rw [busWrite_none (hxy.trans hb), busWrite_none hb]
    exact .of_fault _
  | some w =>
    have hy : y.bus_rdata.isSome := by simp [hb]
    rw [busWrite_some (hxy ▸ hy), busWrite_some hy]
    exact .of_next (m := m.emit (.busWrite a v)) hg

theorem sameButInputs_timeRead {g : Time → Fwc p → Fwc p} (hxy : x.time_now = y.time_now)
    (hg : ∀ t, IgnoresInputs (g t)) :
    SameButInputs x c y d (lift ((m.withInputs x c).timeRead fun t n => .next (g t n)))
      (lift ((m.withInputs y d).timeRead fun t n => .next (g t n))) := by
  cases ht : y.time_now with
  | none =>
    rw [timeRead_none (hxy.trans ht), timeRead_none ht]
    exact .of_fault _
  | some t =>
    rw [timeRead_some (hxy.trans ht), timeRead_some ht]
    exact .of_next (m := m.emit (.time t)) (hg t)

theorem sameButInputs_accept :
    SameButInputs x c x d (exec .accept ⟨p, m.withInputs x c⟩) (exec .accept ⟨p, m.withInputs x d⟩) := by
  by_cases hacc : m.STATE = FsmState.IDLE.code ∧ x.req_valid = true
  · exact .inl ⟨((m.emit (.request ⟨x.req_addr, x.req_value⟩)).latch ⟨x.req_addr, x.req_value⟩).goto .TSTART,
      exec_accept_of_request hacc.1 hacc.2, exec_accept_of_request hacc.1 hacc.2⟩
  · exact .inl ⟨m, exec_accept_waits hacc, exec_accept_waits hacc⟩

theorem sameButInputs_respond (hxy : x.rsp_ready = y.rsp_ready) :
    SameButInputs x c y d (exec .respond ⟨p, m.withInputs x c⟩) (exec .respond ⟨p, m.withInputs y d⟩) := by
  by_cases hrsp : m.STATE = FsmState.DONE.code ∧ y.rsp_ready = true
  · obtain ⟨hs, hy⟩ := hrsp
    have hx : x.rsp_ready = true := hxy.trans hy
    by_cases hres : m.RESULT = reservedResult
    · exact .inr ⟨_, exec_respond_of_reserved hs hx hres, exec_respond_of_reserved hs hy hres⟩
    · exact .inl ⟨(m.emit (.response m.RESULT)).goto .IDLE, exec_respond_delivers hs hx hres,
        exec_respond_delivers hs hy hres⟩
  · have hrspx : ¬ (m.STATE = FsmState.DONE.code ∧ x.rsp_ready = true) := hxy ▸ hrsp
    exact .inl ⟨m, exec_respond_waits hrspx, exec_respond_waits hrsp⟩

/-- Only ACCEPT reads the request ports, and no operation reads the draw count. -/
theorem sameButInputs_exec {i : Instr} (hxy : x.AgreeOffRequest y) (hreq : i = .accept → x = y) :
    SameButInputs x c y d (exec i ⟨p, m.withInputs x c⟩) (exec i ⟨p, m.withInputs y d⟩) := by
  cases i with
  | accept =>
    obtain rfl := hreq rfl
    exact sameButInputs_accept
  | timeStart => exact sameButInputs_timeRead hxy.time_now fun _ _ _ _ => rfl
  | cmdProgram => exact sameButInputs_busWrite hxy.bus_rdata fun _ _ _ => rfl
  | dataWrite => exact sameButInputs_busWrite hxy.bus_rdata fun _ _ _ => rfl
  | statusRead =>
    exact sameButInputs_busRead hxy.bus_rdata fun sr n z e => statusBranch_ignoresInputs sr (n.setSR sr) z e
  | timeCheck => exact sameButInputs_timeRead hxy.time_now timeBranch_ignoresInputs
  | cmdReset => exact sameButInputs_busWrite hxy.bus_rdata fun _ _ _ => rfl
  | readback => exact sameButInputs_busRead hxy.bus_rdata fun _ _ _ _ => rfl
  | respond => exact sameButInputs_respond hxy.rsp_ready

theorem runSampled_of_rst (hr : m.pins.rst = true) : runSampled ⟨p, m⟩ = .next ⟨p, m.resetStep⟩ := if_pos hr

theorem runSampled_of_unused_code {code : StateCode} (hr : m.pins.rst = false)
    (hi : decode m.STATE = .error (.unusedStateCode code)) : runSampled ⟨p, m⟩ = .fault (.unusedStateCode code) := by
  simp [runSampled, hr, hi]

/-- A reset step alone reads the draw count, for the free values it leaves in the registers. -/
theorem sameButInputs_runSampled (hxy : x.AgreeOffRequest y) (hreq : m.STATE = FsmState.IDLE.code → x = y)
    (hdraws : y.rst = true → c = d) :
    SameButInputs x c y d (runSampled ⟨p, m.withInputs x c⟩) (runSampled ⟨p, m.withInputs y d⟩) := by
  cases hr : y.rst with
  | true =>
    obtain rfl := hdraws hr
    exact .inl ⟨(m.withInputs x c).resetStep, runSampled_of_rst (hxy.rst.trans hr), runSampled_of_rst hr⟩
  | false =>
    cases hi : decode m.STATE with
    | ok i =>
      rw [runSampled_of_decode (m := m.withInputs x c) (hxy.rst.trans hr) hi,
        runSampled_of_decode (m := m.withInputs y d) hr hi]
      exact sameButInputs_exec hxy fun hacc => hreq (by rw [decode_eq_ok.mp hi, hacc]; rfl)
    | error e =>
      obtain ⟨code⟩ := e
      exact .inr ⟨_, runSampled_of_unused_code (hxy.rst.trans hr) hi, runSampled_of_unused_code hr hi⟩

end

/-- Within the schedule a step sees its first record, whatever the draw count is. -/
theorem Fwc.sample_of_env_cons {m : Fwc p} {x : Inputs p} {rest : List (Inputs p)} (h : m.env = x :: rest) :
    m.sample = { m with pins := x, env := rest, draws := m.draws + 1 } := by
  simp [Fwc.sample, m.nextInputs_cons h, h]

end Sys2Proof.Machine

namespace Sys2Proof.Proofs

open Sys2Proof.Machine

/-- Settles O26: the two machines sample levels that differ at the request ports, which only ACCEPT reads. -/
theorem requestsAreTakenOnlyInIdle : Obligations.RequestsAreTakenOnlyInIdle := by
  refine ⟨fun p m x rest v a d henv hs hp => ⟨Fwc.req_ready_eq_false hs, ?_⟩, fun p m hp hs hr hv => ?_⟩
  · rw [step_of_wellFormed hp, step_of_wellFormed hp, Fwc.sample_of_env_cons henv, Fwc.sample_of_env_cons rfl]
    have hsame := sameButInputs_runSampled (m := { m with env := rest }) (x := x)
      (y := { x with req_valid := v, req_addr := a, req_value := d }) (c := m.draws + 1) (d := m.draws + 1)
      ⟨rfl, rfl, rfl, rfl⟩ (fun hidle => absurd hidle hs) (fun _ => rfl)
    exact hsame.imp_left fun ⟨n, hn, hn'⟩ => ⟨n.withInputs x (m.draws + 1), hn, hn'⟩
  · rw [step_in_IDLE hp hs hr, exec_accept_of_request (m := m.sample) hs hv]
    exact ⟨_, rfl, rfl, rfl, rfl⟩

end Sys2Proof.Proofs
end

section
/-! PROOF. 40_request.md: operations that are alike, step by step, in runs of every length (R107). -/

namespace Sys2Proof.Machine

variable {p : Params} {m n : Fwc p}

/-! ### Runs -/

section
variable {s : State} {k : Nat}

theorem run_of_next {t : State} (h : step s = .next t) : core.run (k + 1) s = core.run k t := by
  have hcore : core.step s = .next t := h
  simp only [Host.Core.run, hcore]

theorem run_of_fault {f : Fault} (h : step s = .fault f) : core.run (k + 1) s = .fault f := by
  have hcore : core.step s = .fault f := h
  simp only [Host.Core.run, hcore]

theorem run_of_refused {r : Refusal} (h : step s = .refused r) : core.run (k + 1) s = .refused r := by
  have hcore : core.step s = .refused r := h
  simp only [Host.Core.run, hcore]

end

/-- The outcomes of machines with the traces `tm` and `tn` go alike: both go on, to FWCs related by `R` and with the same
transactions added, or both stop alike. `AgreeingOutcomes` and `SameTransactions` are its cases for `Agree` and for equal
`STATE`. -/
def OutcomesAlike (R : Fwc p → Fwc p → Prop) (tm tn : List (Event p.A p.W)) (a b : Host.Outcome State Fault Refusal) :
    Prop :=
  (∃ (m n : Fwc p) (es : List (Event p.A p.W)), a = .next ⟨p, m⟩ ∧ b = .next ⟨p, n⟩ ∧ R m n ∧ m.trace = es ++ tm ∧
    n.trace = es ++ tn) ∨
  (∃ f, a = .fault f ∧ b = .fault f) ∨
  (∃ r, a = .refused r ∧ b = .refused r)

theorem OutcomesAlike.mono {R S : Fwc p → Fwc p → Prop} {tm tn : List (Event p.A p.W)}
    {a b : Host.Outcome State Fault Refusal} (h : OutcomesAlike R tm tn a b) (hRS : ∀ m n, R m n → S m n) :
    OutcomesAlike S tm tn a b :=
  h.imp_left fun ⟨m, n, es, ha, hb, hR, hm, hn⟩ => ⟨m, n, es, ha, hb, hRS m n hR, hm, hn⟩

/-- Transactions `es` performed before on both sides are part of what both have added. -/
theorem OutcomesAlike.after {R : Fwc p → Fwc p → Prop} {tm tn : List (Event p.A p.W)}
    {a b : Host.Outcome State Fault Refusal} {es : List (Event p.A p.W)}
    (h : OutcomesAlike R (es ++ tm) (es ++ tn) a b) : OutcomesAlike R tm tn a b :=
  h.imp_left fun ⟨m, n, fs, ha, hb, hR, hm, hn⟩ => ⟨m, n, fs ++ es, ha, hb, hR, by simp [hm], by simp [hn]⟩

/-- When one step takes FWCs related for `k + 1` further steps to FWCs related for `k`, `k` steps go alike. -/
theorem outcomesAlike_run {R : Nat → Fwc p → Fwc p → Prop}
    (hstep : ∀ k m n, R (k + 1) m n → OutcomesAlike (R k) m.trace n.trace (step ⟨p, m⟩) (step ⟨p, n⟩)) :
    ∀ (k : Nat) (m n : Fwc p), R k m n →
      OutcomesAlike (R 0) m.trace n.trace (core.run k (State.mk p m)) (core.run k (State.mk p n)) := by
  intro k
  induction k with
  | zero => exact fun m n hR => .inl ⟨m, n, [], rfl, rfl, hR, rfl, rfl⟩
  | succ k ih =>
    intro m n hR
    rcases hstep k m n hR with ⟨m', n', es, hm, hn, hR', htm, htn⟩ | ⟨f, hm, hn⟩ | ⟨r, hm, hn⟩
    · have hrest := ih m' n' hR'
      rw [htm, htn] at hrest
      rw [run_of_next hm, run_of_next hn]
      exact hrest.after
    · exact .inr (.inl ⟨f, run_of_fault hm, run_of_fault hn⟩)
    · exact .inr (.inr ⟨r, run_of_refused hm, run_of_refused hn⟩)

/-! ### The same inputs -/

/-- R37: in IDLE no register will be read before the operation has written it. -/
theorem agree_of_IDLE (hm : m.STATE = FsmState.IDLE.code) (hn : n.STATE = FsmState.IDLE.code) (henv : m.env = n.env)
    (hdraws : m.draws = n.draws) : Agree m n where
  state := hm.trans hn.symm
  env := henv
  draws := hdraws
  held h := by simp [hm] at h
  t0 h := by simp [hm] at h
  result h := by simp [hm] at h

/-- The FWCs would agree if they had the same draw count (and the same levels sampled last), and `k` more steps are
scheduled. -/
def AgreeFor (k : Nat) (m n : Fwc p) : Prop := k ≤ m.env.length ∧ ∃ y d, Agree m (n.withInputs y d)

theorem agreeFor_of_IDLE {k : Nat} (hm : m.STATE = FsmState.IDLE.code) (hn : n.STATE = FsmState.IDLE.code)
    (henv : m.env = n.env) (hk : k ≤ m.env.length) : AgreeFor k m n :=
  ⟨hk, n.pins, m.draws, agree_of_IDLE hm hn henv rfl⟩

/-- Every step takes one record off the schedule. -/
theorem step_next_env (h : step ⟨p, m⟩ = .next ⟨p, n⟩) : n.env = m.env.tail := by
  obtain ⟨_, ⟨_, hn⟩ | ⟨_, i, _, he⟩⟩ := step_cases h
  · cases hn
    rfl
  · obtain ⟨_, henv, _⟩ := (exec_performs he).keeps_inputs
    exact henv

/-- A scheduled step without reset is the same at every draw count. -/
theorem sameButInputs_step {x y : Inputs p} {rest : List (Inputs p)} {d : Nat} (hp : p.WellFormed)
    (henv : n.env = x :: rest) (hr : x.rst = false) :
    SameButInputs x (d + 1) x (n.draws + 1) (step ⟨p, n.withInputs y d⟩) (step ⟨p, n⟩) := by
  rw [step_of_wellFormed hp, step_of_wellFormed hp, Fwc.sample_of_env_cons henv,
    Fwc.sample_of_env_cons (m := n.withInputs y d) henv]
  exact sameButInputs_runSampled (m := { n with env := rest }) ⟨rfl, rfl, rfl, rfl⟩ (fun _ => rfl) (by simp [hr])

theorem step_of_rst (hp : p.WellFormed) (hr : m.nextInputs.rst = true) :
    step ⟨p, m⟩ = .next ⟨p, m.sample.resetStep⟩ := by
  rw [step_of_wellFormed hp]
  exact runSampled_of_rst hr

/-- Of two outcomes that agree, the second may be replaced by one with other levels and another draw count. -/
theorem AgreeingOutcomes.congr_right {x y : Inputs p} {c d : Nat} {tm tn : List (Event p.A p.W)}
    {a b b' : Host.Outcome State Fault Refusal} (h : AgreeingOutcomes p tm tn a b) (hs : SameButInputs x c y d b b') :
    OutcomesAlike (fun m n => Agree m (n.withInputs x c)) tm tn a b' := by
  rcases hs with ⟨l, rfl, rfl⟩ | ⟨g, rfl, rfl⟩
  · rcases h with ⟨m, n, es, ha, ⟨⟩, hagree, htm, htn⟩ | ⟨f, _, ⟨⟩⟩ | ⟨r, _, ⟨⟩⟩
    exact .inl ⟨m, _, es, ha, rfl, hagree, htm, htn⟩
  · rcases h with ⟨m, n, es, _, ⟨⟩, _⟩ | ⟨f, ha, ⟨⟩⟩ | ⟨r, _, ⟨⟩⟩
    exact .inr (.inl ⟨g, ha, rfl⟩)

/-- A reset leaves different free values at different draw counts, but in IDLE, where no register matters; without reset
the draw count plays no part. -/
theorem outcomesAlike_step {k : Nat} (h : AgreeFor (k + 1) m n) :
    OutcomesAlike (AgreeFor k) m.trace n.trace (step ⟨p, m⟩) (step ⟨p, n⟩) := by
  obtain ⟨hk, y, d, hagree⟩ := h
  by_cases hp : p.WellFormed
  case neg => exact .inr (.inr ⟨_, step_of_not_wellFormed hp, step_of_not_wellFormed hp⟩)
  obtain ⟨x, rest, henv⟩ := List.exists_cons_of_length_pos (by omega : 0 < m.env.length)
  have henv' : n.env = x :: rest := hagree.env.symm.trans henv
  have hk' : k ≤ m.env.tail.length := by rw [List.length_tail]; omega
  cases hr : x.rst with
  | true =>
    refine .inl ⟨_, _, [], step_of_rst hp (by rwa [m.nextInputs_cons henv]),
      step_of_rst hp (by rwa [n.nextInputs_cons henv']), ?_, rfl, rfl⟩
    exact agreeFor_of_IDLE rfl rfl (congrArg List.tail hagree.env) hk'
  | false =>
    have hoff := AgreeingOutcomes.congr_right (Proofs.leftoverRegistersDoNotMatterToAStep p m _ hagree)
      (sameButInputs_step hp henv' hr)
    refine hoff.imp_left ?_
    rintro ⟨m', n', es, hm, hn, hagree', htrace⟩
    exact ⟨m', n', es, hm, hn, ⟨(step_next_env hm).symm ▸ hk', x, d + 1, hagree'⟩, htrace⟩

end Sys2Proof.Machine

namespace Sys2Proof.Proofs

open Sys2Proof.Machine

/-- Settles O33: in IDLE the two FWCs agree, and each step keeps the agreement. -/
theorem sameInputsGiveTheSameOperation : Obligations.SameInputsGiveTheSameOperation := by
  intro k p m n hm hn henv hdraws
  exact outcomesAlike_run (R := fun _ => Agree) (fun _ => leftoverRegistersDoNotMatterToAStep p) k m n
    (agree_of_IDLE hm hn henv hdraws)

/-- Settles O53: in IDLE the two FWCs agree but for the draw count, and each scheduled step keeps that. -/
theorem sameScheduledInputsGiveTheSameTransactions : Obligations.SameScheduledInputsGiveTheSameTransactions := by
  intro k p m n hm hn henv hk
  exact (outcomesAlike_run (fun _ _ _ => outcomesAlike_step) k m n (agreeFor_of_IDLE hm hn henv hk)).mono
    fun _ _ ⟨_, _, _, hagree⟩ => hagree.state

end Sys2Proof.Proofs
end

section
/-! PROOF. 40_request.md: the transactions of an operation and its result are determined by the request and the values its
reads return (R107). The operation is followed transaction by transaction, without the machine. -/

namespace Sys2Proof.Machine

variable {p : Params}

/-! ### Reads that return the same values -/

theorem SameReadValues.symm {A W : Nat} {es fs : List (Event A W)} (h : SameReadValues es fs) : SameReadValues fs es :=
  fun i => ⟨fun a b v w hv hw => ((h i).1 b a w v hw hv).symm, fun t u ht hu => ((h i).2 u t hu ht).symm⟩

theorem SameReadValues.word_eq {A W : Nat} {a b : Address A} {v w : Word W}
    (h : SameReadValues [.busRead a v] [.busRead b w]) : v = w :=
  (h 0).1 a b v w rfl rfl

theorem SameReadValues.time_eq {A W : Nat} {t u : Time} (h : SameReadValues (A := A) (W := W) [.time t] [.time u]) :
    t = u :=
  (h 0).2 t u rfl rfl

/-- Transactions at the same positions before the ends still return the same values. -/
theorem SameReadValues.of_append {A W : Nat} {es es' fs fs' : List (Event A W)}
    (h : SameReadValues (es ++ es') (fs ++ fs')) : SameReadValues es fs := by
  have mem {gs gs' : List (Event A W)} {i : Nat} {e : Event A W} (he : gs[i]? = some e) : (gs ++ gs')[i]? = some e := by
    rw [List.getElem?_append_left (List.getElem?_eq_some_iff.mp he).1, he]
  exact fun i => ⟨fun a b v w hv hw => (h i).1 a b v w (mem hv) (mem hw), fun t u ht hu => (h i).2 t u (mem ht) (mem hu)⟩

/-- The last transactions of two lists of one length stand at the same position. -/
theorem SameReadValues.last {A W : Nat} {es fs : List (Event A W)} {e f : Event A W}
    (h : SameReadValues (es ++ [e]) (fs ++ [f])) (hlen : es.length = fs.length) : SameReadValues [e] [f] := by
  have at_end {gs : List (Event A W)} {g c : Event A W} {i : Nat} (hg : [g][i]? = some c) :
      (gs ++ [g])[gs.length + i]? = some c := by
    rw [List.getElem?_append_right (Nat.le_add_right _ _), Nat.add_sub_cancel_left, hg]
  intro i
  have hi := h (es.length + i)
  exact ⟨fun a b v w hv hw => hi.1 a b v w (at_end hv) (hlen ▸ at_end hw),
    fun t u ht hu => hi.2 t u (at_end ht) (hlen ▸ at_end hu)⟩

/-! ### An operation, transaction by transaction -/

/-- How far an operation has got: the state of the FWC, with the start time once it has been read and until the polling
ends, and the result once it has been selected. -/
inductive Stage where
  | tstart
  | cmd (t0 : Time)
  | data (t0 : Time)
  | poll (t0 : Time)
  | tchk (t0 : Time)
  | rst (r : OpResult)
  | rb
  | done (r : OpResult)

/-- The state of the FWC at a stage. -/
def Stage.state : Stage → FsmState
  | .tstart => .TSTART
  | .cmd _  => .CMD
  | .data _ => .DATA
  | .poll _ => .POLL
  | .tchk _ => .TCHK
  | .rst _  => .RST
  | .rb     => .RB
  | .done _ => .DONE

/-- The stage after the status read `sr` (R140). -/
def Stage.afterStatus (p : Params) (t0 : Time) (sr : Word p.W) : Stage :=
  if isReady p sr then
    match classify p sr with
    | none   => .rb
    | some r => .rst r
  else
    .tchk t0

/-- The stage after the time check `t` (R145). -/
def Stage.afterCheck (p : Params) (t0 t : Time) : Stage := if timedOut p t0 t then .done .TimeoutError else .poll t0

/-- The stage after the read-back `rb` (R170). -/
def Stage.afterReadback {W : Nat} (value rb : Word W) : Stage := .done (if rb = value then .Success else .ReadBackError)

/-- At a stage of the operation on `q` the transaction is performed, and leads to the stage given last. -/
inductive Stage.Does (q : Req p.A p.W) : Stage → Event p.A p.W → Stage → Prop where
  | start (t : Time) : Does q .tstart (.time t) (.cmd t)
  | program (t0 : Time) : Does q (.cmd t0) (.busWrite (cmdRegAddr p) (programCmd p)) (.data t0)
  | write (t0 : Time) : Does q (.data t0) (.busWrite q.address q.value) (.poll t0)
  | status (t0 : Time) (sr : Word p.W) : Does q (.poll t0) (statusLine p sr) (.afterStatus p t0 sr)
  | check (t0 t : Time) : Does q (.tchk t0) (.time t) (.afterCheck p t0 t)
  | reset (r : OpResult) : Does q (.rst r) (.busWrite (cmdRegAddr p) (resetCmd p)) (.done r)
  | readback (rb : Word p.W) : Does q .rb (.busRead q.address rb) (.afterReadback q.value rb)

/-- The transactions `es` are those of an operation on `q` that has got to the stage. -/
inductive Reaches (q : Req p.A p.W) : List (Event p.A p.W) → Stage → Prop where
  | request : Reaches q [.request q] .tstart
  | snoc {es : List (Event p.A p.W)} {s s' : Stage} {e : Event p.A p.W} (h : Reaches q es s) (hd : s.Does q e s') :
      Reaches q (es ++ [e]) s'

section
variable {q : Req p.A p.W} {es fs : List (Event p.A p.W)} {e f : Event p.A p.W} {s s' s'' : Stage} {t0 : Time}

/-! ### The invariant's operations are followed -/

theorem Reaches.notReady {sr : Word p.W} (h : Reaches q es (.poll t0)) (hr : isReady p sr = false) :
    Reaches q (es ++ [statusLine p sr]) (.tchk t0) := by
  simpa [Stage.afterStatus, hr] using h.snoc (.status t0 sr)

theorem Reaches.clean {sr : Word p.W} (h : Reaches q es (.poll t0)) (hr : isReady p sr = true)
    (hc : classify p sr = none) : Reaches q (es ++ [statusLine p sr]) .rb := by
  simpa [Stage.afterStatus, hr, hc] using h.snoc (.status t0 sr)

theorem Reaches.error {sr : Word p.W} {r : OpResult} (h : Reaches q es (.poll t0)) (hr : isReady p sr = true)
    (hc : classify p sr = some r) : Reaches q (es ++ [statusLine p sr]) (.rst r) := by
  simpa [Stage.afterStatus, hr, hc] using h.snoc (.status t0 sr)

theorem Reaches.timeLeft {t : Time} (h : Reaches q es (.tchk t0)) (ho : timedOut p t0 t = false) :
    Reaches q (es ++ [.time t]) (.poll t0) := by
  simpa [Stage.afterCheck, ho] using h.snoc (.check t0 t)

theorem Reaches.timeOut {t : Time} (h : Reaches q es (.tchk t0)) (ho : timedOut p t0 t = true) :
    Reaches q (es ++ [.time t]) (.done .TimeoutError) := by
  simpa [Stage.afterCheck, ho] using h.snoc (.check t0 t)

theorem Reaches.equal (h : Reaches q es .rb) : Reaches q (es ++ [.busRead q.address q.value]) (.done .Success) := by
  simpa [Stage.afterReadback] using h.snoc (.readback q.value)

theorem Reaches.differs {rb : Word p.W} (h : Reaches q es .rb) (hrb : rb ≠ q.value) :
    Reaches q (es ++ [.busRead q.address rb]) (.done .ReadBackError) := by
  simpa [Stage.afterReadback, hrb] using h.snoc (.readback rb)

theorem reaches_opening (q : Req p.A p.W) (t0 : Time) : Reaches q (opening p q t0) (.poll t0) :=
  ((Reaches.request.snoc (.start t0)).snoc (.program t0)).snoc (.write t0)

theorem reaches_poll {xs : List (Word p.W × Time)} (hw : Waiting p t0 xs) :
    Reaches q (opening p q t0 ++ pollLines p xs) (.poll t0) := by
  induction xs using List.reverseRecOn with
  | nil => simpa [pollLines] using reaches_opening q t0
  | append_singleton xs x ih =>
    obtain ⟨sr, t⟩ := x
    obtain ⟨hr, ho⟩ := hw (sr, t) (by simp)
    have hround := ((ih fun y hy => hw y (by simp [hy])).notReady hr).timeLeft ho
    simpa [pollLines_concat] using hround

theorem reaches_done {r : OpResult} (h : OperationShape p q r es) : Reaches q es (.done r) := by
  obtain ⟨t0, xs, sr, hw, hshape⟩ := h
  have hpoll := reaches_poll (q := q) hw
  rcases hshape with ⟨hr, rfl, t, ho, rfl⟩ | ⟨hr, hc, rfl⟩ | ⟨hr, hc, rfl, rfl⟩ | ⟨hr, hc, rfl, rb, hrb, rfl⟩
  · simpa using (hpoll.notReady hr).timeOut ho
  · simpa using (hpoll.error hr hc).snoc (.reset r)
  · simpa using (hpoll.clean hr hc).equal
  · simpa using (hpoll.clean hr hc).differs hrb

theorem stateCode_of_le {c : StateCode} (h : c.toNat ≤ 8) : ∃ f : FsmState, c = f.code := by
  have hok : ∀ c : StateCode, c.toNat ≤ 8 → (decode c).isOk := by decide
  cases hd : decode c with
  | ok i => exact ⟨i.performedIn, decode_eq_ok.mp hd⟩
  | error e => simpa [hd, Except.isOk, Except.toBool] using hok c h

/-- Ties the stages to the model: in every state but IDLE the invariant says how far the operation has got. -/
theorem Fwc.Inv.reaches {m : Fwc p} (hm : m.Inv) (hs : m.STATE ≠ FsmState.IDLE.code) :
    ∃ s : Stage, Reaches m.held m.operation s ∧ m.STATE = s.state.code ∧ ∀ r, s = .done r → m.RESULT = r.code := by
  obtain ⟨f, hf⟩ := stateCode_of_le hm.legal
  have hprog : m.Progress f := (inv_iff_progress hf).mp hm
  cases f with
  | IDLE => exact absurd hf hs
  | TSTART =>
    have hop : m.operation = [.request m.held] := hprog
    exact ⟨.tstart, hop ▸ .request, hf, by simp⟩
  | CMD =>
    have hop : m.operation = [.request m.held, .time m.T0] := hprog
    exact ⟨.cmd m.T0, hop ▸ .snoc .request (.start _), hf, by simp⟩
  | DATA =>
    have hop : m.operation = [.request m.held, .time m.T0, .busWrite (cmdRegAddr p) (programCmd p)] := hprog
    exact ⟨.data m.T0, hop ▸ .snoc (.snoc .request (.start _)) (.program _), hf, by simp⟩
  | POLL =>
    obtain ⟨xs, hw, hop⟩ := hprog
    exact ⟨.poll m.T0, hop ▸ reaches_poll hw, hf, by simp⟩
  | TCHK =>
    obtain ⟨xs, hw, hr, hop⟩ := hprog
    exact ⟨.tchk m.T0, hop ▸ (reaches_poll hw).notReady hr, hf, by simp⟩
  | RST =>
    obtain ⟨xs, r, hw, hr, hc, _, hop⟩ := hprog
    exact ⟨.rst r, hop ▸ (reaches_poll hw).error hr hc, hf, by simp⟩
  | RB =>
    obtain ⟨xs, hw, hr, hc, hop⟩ := hprog
    exact ⟨.rb, hop ▸ (reaches_poll hw).clean hr hc, hf, by simp⟩
  | DONE =>
    obtain ⟨r, hres, hshape⟩ := hprog
    exact ⟨.done r, reaches_done hshape, hf, fun _ he => Stage.done.inj he ▸ hres⟩

/-! ### The operation is determined -/

/-- What is performed at a stage is fixed but for the value that a read returns, and that value fixes the next stage. -/
theorem Stage.Does.determined (h : s.Does q e s') (h' : s.Does q f s'') (hv : SameReadValues [e] [f]) :
    e = f ∧ s' = s'' := by
  cases h with
  | start t =>
    cases h' with
    | start u =>
      obtain rfl := hv.time_eq
      exact ⟨rfl, rfl⟩
  | check t0 t =>
    cases h' with
    | check _ u =>
      obtain rfl := hv.time_eq
      exact ⟨rfl, rfl⟩
  | status t0 sr =>
    cases h' with
    | status _ sr' =>
      obtain rfl := hv.word_eq
      exact ⟨rfl, rfl⟩
  | readback rb =>
    cases h' with
    | readback rb' =>
      obtain rfl := hv.word_eq
      exact ⟨rfl, rfl⟩
  | program | write | reset =>
    cases h'
    exact ⟨rfl, rfl⟩

theorem Stage.eq_done (h : s.state = .DONE) : ∃ r, s = .done r := by
  cases s with
  | done r => exact ⟨r, rfl⟩
  | tstart | cmd | data | poll | tchk | rst | rb => cases h

theorem Stage.not_done_does {r : OpResult} : ¬ (Stage.done r).Does q e s := by
  intro h
  cases h

theorem Reaches.ne_nil (h : Reaches q es s) : es ≠ [] := by
  cases h <;> simp

theorem Reaches.head?_eq (h : Reaches q es s) : es.head? = some (.request q) := by
  induction h with
  | request => rfl
  | snoc h _ ih => rw [List.head?_append, ih, Option.some_or]

/-- R107, after equally many transactions. -/
theorem Reaches.eq_of_length_eq (h : Reaches q es s) (h' : Reaches q fs s') (hv : SameReadValues es fs)
    (hlen : es.length = fs.length) : es = fs ∧ s = s' := by
  induction h generalizing fs s' with
  | request =>
    cases h' with
    | request => exact ⟨rfl, rfl⟩
    | snoc h' _ => exact absurd (by simpa using hlen) h'.ne_nil
  | snoc h hd ih =>
    cases h' with
    | request => exact absurd (by simpa using hlen) h.ne_nil
    | snoc h' hd' =>
      obtain ⟨rfl, rfl⟩ := ih h' hv.of_append (by simpa using hlen)
      obtain ⟨rfl, hs⟩ := hd.determined hd' (hv.last rfl)
      exact ⟨rfl, hs⟩

/-- A complete operation is not a proper part of another: nothing is performed in DONE but the response. -/
theorem Reaches.length_le_of_done {r : OpResult} (h : Reaches q es (.done r)) (h' : Reaches q fs s)
    (hv : SameReadValues es fs) : fs.length ≤ es.length := by
  induction h' with
  | request => exact List.length_pos_of_ne_nil h.ne_nil
  | @snoc fs s s' e h' hd ih =>
    have hv' : SameReadValues es fs := SameReadValues.of_append (es' := []) (by simpa using hv)
    have hle : fs.length ≤ es.length := ih hv'
    by_contra hlt
    rw [List.length_append, List.length_singleton] at hlt
    obtain ⟨_, rfl⟩ := h.eq_of_length_eq h' hv' (by omega)
    exact Stage.not_done_does hd

end

end Sys2Proof.Machine

namespace Sys2Proof.Proofs

open Sys2Proof.Machine

/-- Settles O52: both operations are followed from the one request to a stage each, which gives `STATE` and, in DONE,
`RESULT`; two complete ones are equally long. -/
theorem sameRequestAndReadValuesGiveTheSameOperation : Obligations.SameRequestAndReadValuesGiveTheSameOperation := by
  intro p m n hm hn hsm hsn hhead hv
  obtain ⟨s, hs, hms, hres⟩ := hm.reaches hsm
  obtain ⟨s', hs', hns, hres'⟩ := hn.reaches hsn
  have hq : m.held = n.held := by
    rw [hs.head?_eq, hs'.head?_eq] at hhead
    simpa using hhead
  rw [← hq] at hs'
  refine ⟨fun hlen => ?_, fun hmd hnd => ?_⟩
  · obtain ⟨hop, rfl⟩ := hs.eq_of_length_eq hs' hv hlen
    exact ⟨hop, hms.trans hns.symm⟩
  · obtain ⟨r, rfl⟩ := Stage.eq_done (stateCode_inj.mp (hms.symm.trans hmd))
    obtain ⟨r', rfl⟩ := Stage.eq_done (stateCode_inj.mp (hns.symm.trans hnd))
    have hlen := Nat.le_antisymm (hs'.length_le_of_done hs hv.symm) (hs.length_le_of_done hs' hv)
    obtain ⟨hop, hr⟩ := hs.eq_of_length_eq hs' hv hlen
    exact ⟨hop, by rw [hres r rfl, hres' r' rfl, Stage.done.inj hr]⟩

end Sys2Proof.Proofs
end

section
/-! PROOF. 41_sequencer.md: the next state of TIME_START (R120), CMD_PROGRAM (R123) and DATA_WRITE (R125) once their one
transaction has completed. None of the three tests a register. -/

namespace Sys2Proof.Machine

variable {p : Params} {m : Fwc p}

theorem exec_timeStart_of_answer {t : Time} (ht : m.pins.time_now = some t) :
    exec .timeStart ⟨p, m⟩ = .next ⟨p, ((m.emit (.time t)).setT0 t).goto .CMD⟩ := by
  rw [exec, execTimeStart, timeRead_some ht, lift_next]

theorem exec_cmdProgram_of_completes (hb : m.pins.bus_rdata.isSome) :
    exec .cmdProgram ⟨p, m⟩ = .next ⟨p, (m.emit (.busWrite (cmdRegAddr p) (programCmd p))).goto .DATA⟩ := by
  rw [exec, execCmdProgram, busWrite_some hb, lift_next]

theorem exec_dataWrite_of_completes (hb : m.pins.bus_rdata.isSome) :
    exec .dataWrite ⟨p, m⟩ = .next ⟨p, (m.emit (.busWrite m.ADDR m.DATA)).goto .POLL⟩ := by
  rw [exec, execDataWrite, busWrite_some hb, lift_next]

end Sys2Proof.Machine

namespace Sys2Proof.Proofs

open Sys2Proof.Machine

/-- Settles O3: the three updates of the path are the statement's `T0`, `STATE` and `trace`. -/
theorem timeStartCapturesTheTime : Obligations.TimeStartCapturesTheTime := fun _ _ _ => exec_timeStart_of_answer

/-- Settles O4: the address and the code are the parameters', cut to the two widths. -/
theorem cmdProgramWritesTheProgramCommand : Obligations.CmdProgramWritesTheProgramCommand :=
  fun _ _ => exec_cmdProgram_of_completes

/-- Settles O5: nothing is asked of `ADDR`, so it may be one of the two register addresses (R125). -/
theorem dataWriteWritesTheWord : Obligations.DataWriteWritesTheWord := fun _ _ => exec_dataWrite_of_completes

end Sys2Proof.Proofs
end

section
/-! PROOF. 42_poll.md: STATUS_READ (R140, R141) and TIME_CHECK (R145, R146, R151), and the polls made of them: how many
transactions they take (R147, R148), and that they end (R150). -/

namespace Sys2Proof.Machine

variable {p : Params} {m n : Fwc p} {q : Req p.A p.W} {t0 t : Time} {sr : Word p.W} {x : Inputs p}
  {rest : List (Inputs p)} {e : Event p.A p.W} {es fs : List (Event p.A p.W)}

/-! ### The Ready test (R141) -/

theorem bit_eq_twoPow (W pos : Nat) : bit W pos = BitVec.twoPow W pos := (BitVec.twoPow_eq W pos).symm

theorem posReady_lt (hp : p.WellFormed) : p.posReady < p.W := by
  obtain ⟨_, _, _, hlt, _⟩ := hp
  exact hlt _ List.mem_cons_self

theorem isReady_iff_mask : isReady p sr = true ↔ sr &&& BitVec.twoPow p.W p.posReady ≠ 0#p.W := by
  rw [← bit_eq_twoPow]
  exact bne_iff_ne

theorem isReady_eq_getLsbD (hp : p.WellFormed) : isReady p sr = sr.getLsbD p.posReady :=
  anySet_bit sr (posReady_lt hp)

/-! ### The bound (R145, R146, R151) -/

theorem timedOut_iff : timedOut p t0 t = true ↔ p.timeoutUs ≤ (t - t0).toNat := decide_eq_true_iff

theorem timedOut_eq_false_iff : timedOut p t0 t = false ↔ (t - t0).toNat < p.timeoutUs := by
  rw [← Bool.not_eq_true, timedOut_iff, Nat.not_le]

/-- R146 in natural numbers: `2 ^ 32` is added before the subtraction, so that it is not cut off at 0. -/
theorem elapsed_toNat : (t - t0).toNat = (t.toNat + 2 ^ 32 - t0.toNat) % 2 ^ 32 := by
  have ht0 : t0.toNat < 2 ^ 32 := t0.isLt
  rw [BitVec.toNat_sub]
  congr 1
  omega

theorem timedOut_shift (shift : Time) : timedOut p (t0 + shift) (t + shift) = timedOut p t0 t := by
  have h : elapsed (t + shift) (t0 + shift) = elapsed t t0 := add_sub_add_right_eq_sub t t0 shift
  rw [timedOut, h, timedOut]

theorem timedOut_of_zero (h : p.timeoutUs = 0) : timedOut p t0 t = true := timedOut_iff.mpr (h ▸ Nat.zero_le _)

/-- No 32-bit difference is above the largest bound. -/
theorem timedOut_iff_of_max (h : p.timeoutUs = 0xFFFFFFFF) : timedOut p t0 t = true ↔ t = t0 - 1 := by
  rw [timedOut_iff, h]
  bv_omega

/-! ### STATUS_READ and TIME_CHECK, path by path -/

theorem exec_statusRead_of_answer (hb : m.pins.bus_rdata = some sr) :
    exec .statusRead ⟨p, m⟩ = .next ⟨p, statusBranch sr ((m.emit (statusLine p sr)).setSR sr)⟩ := by
  rw [exec, execStatusRead, busRead_some hb, lift_next]
  rfl

theorem exec_timeCheck_of_answer (ht : m.pins.time_now = some t) :
    exec .timeCheck ⟨p, m⟩ = .next ⟨p, timeBranch t (m.emit (.time t))⟩ := by
  rw [exec, execTimeCheck, timeRead_some ht, lift_next]

theorem statusBranch_of_notReady (hr : isReady p sr = false) : statusBranch sr m = m.goto .TCHK := by
  simp [statusBranch, hr]

theorem statusBranch_of_clean (hr : isReady p sr = true) (hc : classify p sr = none) :
    statusBranch sr m = m.goto .RB := by
  simp [statusBranch, hr, hc]

theorem statusBranch_of_error {r : OpResult} (hr : isReady p sr = true) (hc : classify p sr = some r) :
    statusBranch sr m = m.select r .RST := by
  simp [statusBranch, hr, hc]

@[simp] theorem statusBranch_SR : (statusBranch sr m).SR = m.SR := by
  rcases statusBranch_cases sr m with ⟨_, h⟩ | ⟨_, _, h⟩ | ⟨_, _, _, h⟩ <;> rw [h] <;> rfl

theorem timeBranch_of_timeLeft (ho : timedOut p m.T0 t = false) : timeBranch t m = m.goto .POLL := by
  simp [timeBranch, ho]

theorem timeBranch_of_timedOut (ho : timedOut p m.T0 t = true) : timeBranch t m = m.select .TimeoutError .DONE := by
  simp [timeBranch, ho]

theorem timeBranch_STATE_eq_DONE : (timeBranch t m).STATE = FsmState.DONE.code ↔ timedOut p m.T0 t = true := by
  rcases timeBranch_cases t m with ⟨ho, h⟩ | ⟨ho, h⟩
  · simp [h, ho]
  · simp [h, ho]

/-- Of the start time and of the time read only the verdict is used. -/
theorem timeBranch_alike {u : Time} (ho : timedOut p n.T0 u = timedOut p m.T0 t) (hres : n.RESULT = m.RESULT) :
    (timeBranch u n).STATE = (timeBranch t m).STATE ∧ (timeBranch u n).RESULT = (timeBranch t m).RESULT := by
  cases h : timedOut p m.T0 t with
  | true =>
    rw [timeBranch_of_timedOut h, timeBranch_of_timedOut (ho.trans h)]
    exact ⟨rfl, rfl⟩
  | false =>
    rw [timeBranch_of_timeLeft h, timeBranch_of_timeLeft (ho.trans h)]
    exact ⟨rfl, hres⟩

/-! ### Runs in which every step performs one transaction -/

/-- The FWC performs the transactions `es` (oldest first), one in each of as many steps, and then meets `Q`. -/
def Fwc.Transacts (m : Fwc p) (es : List (Event p.A p.W)) (Q : Fwc p → Prop) : Prop :=
  ∃ n : Fwc p, core.run es.length (State.mk p m) = .next (State.mk p n) ∧ n.trace = es.reverse ++ m.trace ∧ Q n

theorem run_add {s t : State} {j : Nat} (k : Nat) (h : core.run j s = .next t) :
    core.run (j + k) s = core.run k t := by
  induction j generalizing s with
  | zero =>
    cases h
    rw [Nat.zero_add]
  | succ j ih =>
    rw [Nat.succ_add]
    cases hs : step s with
    | next u => rw [run_of_next hs] at h ⊢; exact ih h
    | fault f => rw [run_of_fault hs] at h; cases h
    | refused r => rw [run_of_refused hs] at h; cases h

section
variable {Q R : Fwc p → Prop}

theorem Fwc.Transacts.nil (h : Q m) : m.Transacts [] Q := ⟨m, rfl, rfl, h⟩

theorem Fwc.Transacts.append (h : m.Transacts es Q) (hnext : ∀ n, Q n → n.Transacts fs R) :
    m.Transacts (es ++ fs) R := by
  obtain ⟨a, hrun, htrace, ha⟩ := h
  obtain ⟨b, hrun', htrace', hb⟩ := hnext a ha
  refine ⟨b, ?_, ?_, hb⟩
  · rw [List.length_append, run_add _ hrun, hrun']
  · rw [htrace', htrace, List.reverse_append, List.append_assoc]

theorem Fwc.Transacts.mono (h : m.Transacts es Q) (hQ : ∀ n, Q n → R n) : m.Transacts es R := by
  obtain ⟨n, hrun, htrace, hn⟩ := h
  exact ⟨n, hrun, htrace, hQ n hn⟩

/-- Some transactions, `k` at most, one in each of as many steps, lead to `Q`. -/
def Fwc.TransactsWithin (m : Fwc p) (k : Nat) (Q : Fwc p → Prop) : Prop :=
  ∃ es : List (Event p.A p.W), es.length ≤ k ∧ m.Transacts es Q

theorem Fwc.Transacts.within {k : Nat} (h : m.Transacts es Q) (hk : es.length ≤ k) : m.TransactsWithin k Q :=
  ⟨es, hk, h⟩

theorem Fwc.Transacts.append_within {k : Nat} (h : m.Transacts es Q) (hnext : ∀ n, Q n → n.TransactsWithin k R) :
    m.TransactsWithin (es.length + k) R := by
  obtain ⟨a, hrun, htrace, ha⟩ := h
  obtain ⟨fs, hlen, hfs⟩ := hnext a ha
  have hto : m.Transacts es (· = a) := ⟨a, hrun, htrace, rfl⟩
  exact ⟨es ++ fs, by simpa using hlen, hto.append fun _ hn => hn ▸ hfs⟩

/-- One step: without reset it is the operation of `STATE`, on the first scheduled inputs. -/
theorem Fwc.Transacts.of_exec (i : Instr) (hp : p.WellFormed) (hs : m.STATE = i.performedIn.code)
    (henv : m.env = x :: rest) (hr : x.rst = false) (he : exec i ⟨p, m.sample⟩ = .next ⟨p, n⟩)
    (htrace : n.trace = e :: m.trace) (hn : Q n) : m.Transacts [e] Q := by
  have hstep : step ⟨p, m⟩ = .next ⟨p, n⟩ :=
    (step_of_decode hp (by rwa [m.nextInputs_cons henv]) (decode_eq_ok.mpr hs)).trans he
  exact ⟨n, run_of_next hstep, htrace, hn⟩

end

@[simp] theorem opening_length : (opening p q t0).length = 4 := rfl

@[simp] theorem pollLines_length (xs : List (Word p.W × Time)) : (pollLines p xs).length = 2 * xs.length := by
  simp [pollLines, Nat.mul_comm]

/-! ### The steps of an operation, with the inputs scheduled for them -/

/-- The FWC is in the state `f` of an operation on `q`, with the start time `t0` in `T0`, and `rest` is scheduled. -/
structure Fwc.At (m : Fwc p) (f : FsmState) (q : Req p.A p.W) (t0 : Time) (rest : List (Inputs p)) : Prop where
  state : m.STATE = f.code
  held  : m.held = q
  t0    : m.T0 = t0
  env   : m.env = rest

/-- Where an FWC stands after a step that leaves the request and the start time alone. -/
theorem Fwc.At.step {f g : FsmState} (hm : m.At f q t0 (x :: rest)) (hs : n.STATE = g.code) (hheld : n.held = m.held)
    (ht0 : n.T0 = m.T0) (henv : n.env = m.env.tail) : n.At g q t0 rest :=
  ⟨hs, hheld.trans hm.held, ht0.trans hm.t0, henv.trans (congrArg List.tail hm.env)⟩

theorem Fwc.sample_pins_cons (henv : m.env = x :: rest) : m.sample.pins = x := m.nextInputs_cons henv

section
variable (hp : p.WellFormed)
include hp

theorem transacts_accept (hs : m.STATE = FsmState.IDLE.code) (henv : m.env = x :: rest) (hr : x.rst = false)
    (hv : x.req_valid = true) (ha : x.req_addr = q.address) (hd : x.req_value = q.value) :
    m.Transacts [.request q] (·.At .TSTART q m.T0 rest) := by
  have hpins : m.sample.pins = x := Fwc.sample_pins_cons henv
  have hq : (⟨m.sample.pins.req_addr, m.sample.pins.req_value⟩ : Req p.A p.W) = q := by rw [hpins, ha, hd]
  refine .of_exec .accept hp hs henv hr (exec_accept_of_request hs (hpins ▸ hv)) ?_ ?_
  · rw [hq]
    rfl
  · rw [hq]
    exact ⟨rfl, rfl, rfl, congrArg List.tail henv⟩

theorem Fwc.At.transacts_timeStart (hm : m.At .TSTART q t (x :: rest)) (hx : x.TimeAnswers t0) :
    m.Transacts [.time t0] (·.At .CMD q t0 rest) := by
  have ht : m.sample.pins.time_now = some t0 := Fwc.sample_pins_cons hm.env ▸ hx.2
  exact .of_exec .timeStart hp hm.state hm.env hx.1 (exec_timeStart_of_answer ht) rfl
    ⟨rfl, hm.held, rfl, congrArg List.tail hm.env⟩

theorem Fwc.At.transacts_cmdProgram (hm : m.At .CMD q t0 (x :: rest)) (hx : x.BusCompletes) :
    m.Transacts [.busWrite (cmdRegAddr p) (programCmd p)] (·.At .DATA q t0 rest) := by
  have hb : m.sample.pins.bus_rdata.isSome := Fwc.sample_pins_cons hm.env ▸ hx.2
  exact .of_exec .cmdProgram hp hm.state hm.env hx.1 (exec_cmdProgram_of_completes hb) rfl (hm.step rfl rfl rfl rfl)

theorem Fwc.At.transacts_dataWrite (hm : m.At .DATA q t0 (x :: rest)) (hx : x.BusCompletes) :
    m.Transacts [.busWrite q.address q.value] (·.At .POLL q t0 rest) := by
  have hb : m.sample.pins.bus_rdata.isSome := Fwc.sample_pins_cons hm.env ▸ hx.2
  obtain rfl := hm.held
  exact .of_exec .dataWrite hp hm.state hm.env hx.1 (exec_dataWrite_of_completes hb) rfl (hm.step rfl rfl rfl rfl)

theorem Fwc.At.transacts_statusRead (hm : m.At .POLL q t0 (x :: rest)) (hx : x.BusAnswers sr) :
    m.Transacts [statusLine p sr] fun n => n.SR = sr ∧
      (isReady p sr = false → n.At .TCHK q t0 rest) ∧
      (isReady p sr = true → classify p sr = none → n.At .RB q t0 rest) ∧
      (∀ r, isReady p sr = true → classify p sr = some r → n.At .RST q t0 rest ∧ n.RESULT = r.code) := by
  have hb : m.sample.pins.bus_rdata = some sr := Fwc.sample_pins_cons hm.env ▸ hx.2
  refine .of_exec .statusRead hp hm.state hm.env hx.1 (exec_statusRead_of_answer hb) (statusBranch_trace _ _)
    ⟨statusBranch_SR, fun hr => ?_, fun hr hc => ?_, fun r hr hc => ?_⟩
  · rw [statusBranch_of_notReady hr]
    exact hm.step rfl rfl rfl rfl
  · rw [statusBranch_of_clean hr hc]
    exact hm.step rfl rfl rfl rfl
  · rw [statusBranch_of_error hr hc]
    exact ⟨hm.step rfl rfl rfl rfl, rfl⟩

theorem Fwc.At.transacts_timeCheck (hm : m.At .TCHK q t0 (x :: rest)) (hx : x.TimeAnswers t) :
    m.Transacts [.time t] fun n =>
      (timedOut p t0 t = false → n.At .POLL q t0 rest) ∧
      (timedOut p t0 t = true → n.At .DONE q t0 rest ∧ n.RESULT = OpResult.TimeoutError.code) := by
  have ht : m.sample.pins.time_now = some t := Fwc.sample_pins_cons hm.env ▸ hx.2
  obtain rfl := hm.t0
  refine .of_exec .timeCheck hp hm.state hm.env hx.1 (exec_timeCheck_of_answer ht) (timeBranch_trace _ _)
    ⟨fun ho => ?_, fun ho => ?_⟩
  · rw [timeBranch_of_timeLeft (m := m.sample.emit _) ho]
    exact hm.step rfl rfl rfl rfl
  · rw [timeBranch_of_timedOut (m := m.sample.emit _) ho]
    exact ⟨hm.step rfl rfl rfl rfl, rfl⟩

theorem Fwc.At.transacts_respond {r : OpResult} (hm : m.At .DONE q t0 (x :: rest)) (hres : m.RESULT = r.code)
    (hr : x.rst = false) (hx : x.rsp_ready = true) : m.Transacts [.response r.code] (·.At .IDLE q t0 rest) := by
  have hready : m.sample.pins.rsp_ready = true := Fwc.sample_pins_cons hm.env ▸ hx
  have hcode : m.sample.RESULT ≠ reservedResult := hres ▸ resultCode_ne_reserved r
  rw [← hres]
  exact .of_exec .respond hp hm.state hm.env hr (exec_respond_delivers hm.state hready hcode) rfl
    (hm.step rfl rfl rfl rfl)

/-! ### Polls -/

/-- R142: a word without Ready leads to the time check, whatever else it shows. -/
theorem Fwc.At.transacts_notReady (hm : m.At .POLL q t0 (x :: rest)) (hx : x.BusAnswers sr)
    (hr : isReady p sr = false) : m.Transacts [statusLine p sr] (·.At .TCHK q t0 rest) :=
  (hm.transacts_statusRead hp hx).mono fun _ ⟨_, hnot, _⟩ => hnot hr

/-- R144: a Ready word is decoded, and the poll is over. -/
theorem Fwc.At.transacts_ready (hm : m.At .POLL q t0 (x :: rest)) (hx : x.BusAnswers sr) (hr : isReady p sr = true) :
    m.Transacts [statusLine p sr] fun n => n.SR = sr ∧ (n.At .RST q t0 rest ∨ n.At .RB q t0 rest) := by
  refine (hm.transacts_statusRead hp hx).mono fun n ⟨hsr, _, hclean, herror⟩ => ⟨hsr, ?_⟩
  cases hc : classify p sr with
  | none => exact .inr (hclean hr hc)
  | some r => exact .inl (herror r hr hc).1

/-- R126: the four transactions that every operation begins with. -/
theorem transacts_opening {accept start program data : Inputs p} (hs : m.STATE = FsmState.IDLE.code)
    (henv : m.env = [accept, start, program, data] ++ rest) (h : OpeningInputs q t0 accept start program data) :
    m.Transacts (opening p q t0) (·.At .POLL q t0 rest) :=
  (transacts_accept hp hs henv h.noReset h.offered h.address h.value).append fun _ hn =>
    (hn.transacts_timeStart hp h.startTime).append fun _ hn =>
      (hn.transacts_cmdProgram hp h.programmed).append fun _ hn => hn.transacts_dataWrite hp h.written

theorem Fwc.At.transacts_waitingRounds {ps : List (Inputs p × Inputs p)} {xs : List (Word p.W × Time)}
    (hm : m.At .POLL q t0 (pollInputs ps ++ rest)) (h : MakesRounds p t0 ps xs) :
    m.Transacts (pollLines p xs) (·.At .POLL q t0 rest) := by
  obtain ⟨hanswers, hwait⟩ := h
  induction hanswers generalizing m with
  | nil => exact .nil hm
  | @cons x r ps xs hx hanswers ih =>
    obtain ⟨hr, ho⟩ := hwait r List.mem_cons_self
    have hround : m.Transacts ([statusLine p r.1] ++ [.time r.2]) (·.At .POLL q t0 (pollInputs ps ++ rest)) :=
      (hm.transacts_notReady hp hx.1 hr).append fun _ hn =>
        (hn.transacts_timeCheck hp hx.2).mono fun _ ⟨hleft, _⟩ => hleft ho
    exact hround.append fun _ hn => ih hn fun y hy => hwait y (List.mem_cons_of_mem r hy)

/-- An operation up to the end of its waiting rounds. -/
theorem transacts_to_poll {accept start program data : Inputs p} {ps : List (Inputs p × Inputs p)}
    {xs : List (Word p.W × Time)} (hs : m.STATE = FsmState.IDLE.code)
    (henv : m.env = [accept, start, program, data] ++ (pollInputs ps ++ rest))
    (h : OpeningInputs q t0 accept start program data) (hps : MakesRounds p t0 ps xs) :
    m.Transacts (opening p q t0 ++ pollLines p xs) (·.At .POLL q t0 rest) :=
  (transacts_opening hp hs henv h).append fun _ hn => hn.transacts_waitingRounds hp hps

/-- The states a poll can end in. -/
def Fwc.PollEnded (n : Fwc p) : Prop :=
  n.STATE = FsmState.RST.code ∨ n.STATE = FsmState.RB.code ∨ n.STATE = FsmState.DONE.code

/-- R150: a round ends the poll, or its time check did not find the bound reached and the next round follows. So one round
among the scheduled ones whose check finds it reached is enough, wherever it stands. -/
theorem Fwc.At.pollEnds {ps : List (Inputs p × Inputs p)} (hm : m.At .POLL q t0 (pollInputs ps ++ rest))
    (hcomplete : ∀ r ∈ ps, r.1.BusCompletes ∧ r.2.rst = false ∧ r.2.time_now.isSome)
    (hout : ∃ r ∈ ps, ∃ t, r.2.time_now = some t ∧ timedOut p t0 t = true) :
    m.TransactsWithin (2 * ps.length) Fwc.PollEnded := by
  induction ps generalizing m with
  | nil => simp at hout
  | cons r ps ih =>
    obtain ⟨⟨⟨hrst, hbus⟩, hrst', htime⟩, hcomplete⟩ := List.forall_mem_cons.mp hcomplete
    obtain ⟨sr, hsr⟩ := Option.isSome_iff_exists.mp hbus
    obtain ⟨t, ht⟩ := Option.isSome_iff_exists.mp htime
    have hlength : 2 * (r :: ps).length = 2 + 2 * ps.length := by
      rw [List.length_cons, Nat.mul_succ, Nat.add_comm]
    rw [hlength]
    cases hr : isReady p sr with
    | true =>
      have hread : m.Transacts [statusLine p sr] Fwc.PollEnded :=
        (hm.transacts_ready hp ⟨hrst, hsr⟩ hr).mono fun _ ⟨_, hn⟩ => hn.imp Fwc.At.state fun hrb => .inl hrb.state
      exact hread.within (by rw [List.length_singleton]; omega)
    | false =>
      have hround := (hm.transacts_notReady hp ⟨hrst, hsr⟩ hr).append fun _ hn =>
        hn.transacts_timeCheck hp ⟨hrst', ht⟩
      cases ho : timedOut p t0 t with
      | true => exact (hround.mono fun _ ⟨_, hout⟩ => .inr (.inr (hout ho).1.state)).within (by simp)
      | false =>
        have hlater : ∃ r ∈ ps, ∃ t, r.2.time_now = some t ∧ timedOut p t0 t = true := by
          simpa [ht, ho] using hout
        exact hround.append_within fun _ ⟨hleft, _⟩ => ih (hleft ho) hcomplete hlater

end

end Sys2Proof.Machine

namespace Sys2Proof.Proofs

open Sys2Proof.Machine

/-- Settles O6: the branch taken is fixed by Ready and Classify, and each is one line of R140's pseudocode. -/
theorem statusReadBranches : Obligations.StatusReadBranches := by
  intro p m sr hb
  rw [exec_statusRead_of_answer hb]
  refine ⟨fun hr => ?_, fun hr hc => ?_, fun c hr hc => ?_⟩
  · rw [statusBranch_of_notReady hr]
    rfl
  · rw [statusBranch_of_clean hr hc]
    rfl
  · rw [statusBranch_of_error hr hc]
    rfl

/-- Settles O7: the machine's difference of words is the statement's modular difference of numbers. -/
theorem timeCheckComparesElapsedTime : Obligations.TimeCheckComparesElapsedTime := by
  intro p m t ht
  rw [exec_timeCheck_of_answer ht, ← elapsed_toNat]
  refine ⟨fun hout => ?_, fun hleft => ?_⟩
  · rw [timeBranch_of_timedOut (m := m.emit _) (timedOut_iff.mpr hout)]
    rfl
  · rw [timeBranch_of_timeLeft (m := m.emit _) (timedOut_eq_false_iff.mpr hleft)]
    rfl

/-- Settles O39: M_READY is the word with only bit POS_READY set, and well-formedness puts that bit inside the word. -/
theorem readyIsTheReadyBit : Obligations.ReadyIsTheReadyBit := fun _ _ hp =>
  ⟨isReady_iff_mask, by rw [isReady_eq_getLsbD hp]⟩

/-- Settles O44: both time checks compare the same difference. -/
theorem timeCheckDependsOnElapsedTimeOnly : Obligations.TimeCheckDependsOnElapsedTimeOnly := by
  intro p m t shift ht
  exact ⟨_, _, exec_timeCheck_of_answer ht, exec_timeCheck_of_answer rfl, timeBranch_alike (timedOut_shift shift) rfl⟩

/-- Settles O45: which way the branch goes is `timedOut`, decided at each of the two bounds. -/
theorem timeoutBoundExtremes : Obligations.TimeoutBoundExtremes := by
  intro p m n t ht h
  rw [exec_timeCheck_of_answer ht] at h
  cases h
  refine ⟨fun hzero => ?_, fun hmax => timeBranch_STATE_eq_DONE.trans (timedOut_iff_of_max hmax)⟩
  rw [timeBranch_of_timedOut (m := m.emit _) (timedOut_of_zero hzero)]
  exact ⟨rfl, rfl⟩

/-- Settles O34: the waiting rounds, then the Ready read. -/
theorem pollReadsStatusOncePerRoundAndOnceMore : Obligations.PollReadsStatusOncePerRoundAndOnceMore := by
  intro p m ps xs x sr rest hp hs henv hps hx hr
  have hm : m.At .POLL m.held m.T0 (pollInputs ps ++ x :: rest) := ⟨hs, rfl, rfl, henv⟩
  obtain ⟨n, hrun, htrace, hsr, hn⟩ := (hm.transacts_waitingRounds hp hps).append fun _ hn =>
    hn.transacts_ready hp hx hr
  have hheld : n.held = m.held := hn.elim Fwc.At.held Fwc.At.held
  obtain ⟨haddr, hdata⟩ := Req.mk.inj hheld
  rw [List.length_append, pollLines_length] at hrun
  exact ⟨n, hrun, hn.imp Fwc.At.state Fwc.At.state, hsr, hn.elim Fwc.At.env Fwc.At.env, haddr, hdata,
    hn.elim Fwc.At.t0 Fwc.At.t0, htrace⟩

/-- Settles O37: the opening and the waiting rounds, then a read without Ready, the time check that ends the poll, and the
response. -/
theorem operationEndingInTimeoutRuns : Obligations.OperationEndingInTimeoutRuns := by
  intro p m q t0 ps xs accept start program data x y z sr t rest hp hs henv hopen hps hx hr hy ho hz hready
  have henv' : m.env = [accept, start, program, data] ++ (pollInputs ps ++ x :: y :: z :: rest) := by simpa using henv
  have hpoll := transacts_to_poll hp hs henv' hopen hps
  obtain ⟨n, hrun, htrace, hn⟩ := hpoll.append fun _ hn =>
    (hn.transacts_notReady hp hx hr).append fun _ hn => (hn.transacts_timeCheck hp hy).append fun _ ⟨_, hout⟩ =>
      have ⟨hdone, hres⟩ := hout ho
      hdone.transacts_respond hp hres hz hready
  refine ⟨n, ?_, hn.state, hn.env, htrace⟩
  rw [← hrun]
  congr 1
  simp only [List.length_append, opening_length, pollLines_length, List.length_cons, List.length_nil]
  omega

/-- Settles O38: the last of the scheduled rounds is one whose time check finds the bound reached. -/
theorem pollEndsOnceTheTimeHasPassed : Obligations.PollEndsOnceTheTimeHasPassed := by
  intro p m ps last t rest hp hs henv hcomplete ht ho
  have hm : m.At .POLL m.held m.T0 (pollInputs (ps ++ [last]) ++ rest) := ⟨hs, rfl, rfl, henv⟩
  obtain ⟨es, hlen, n, hrun, _, hn⟩ := hm.pollEnds hp hcomplete ⟨last, by simp, t, ht, ho⟩
  exact ⟨es.length, n, by simpa using hlen, hrun, hn⟩

end Sys2Proof.Proofs
end

section
/-! PROOF. 43_decode.md: the decode table of a Ready word (R160 to R162), CMD_RESET and the operation it ends (R165 to
R167), READBACK (R170), and the last transaction before each result (R167, R172). -/

namespace Sys2Proof

/-- The positions of the error-adjacent flags of R162, the bits of M_OTHER. -/
def Params.otherPositions (p : Params) : List Nat :=
  [p.posEraseSuspend, p.posEraseError, p.posProgramSuspend, p.posReserved]

theorem Params.otherPositions_subset (p : Params) : p.otherPositions ⊆ p.positions := by
  simp [Params.otherPositions, Params.positions]

end Sys2Proof

namespace Sys2Proof.Machine

variable {p : Params} {m : Fwc p} {q : Req p.A p.W} {t0 : Time} {x : Inputs p} {rest : List (Inputs p)} {r : OpResult}
  {es : List (Event p.A p.W)}

/-! ### The flags as bits (R160, R161) -/

/-- A word shares a bit with a mask exactly when some position is set in both. -/
theorem anySet_iff {W : Nat} (sr mask : Word W) :
    anySet sr mask = true ↔ ∃ i, i < W ∧ sr.getLsbD i = true ∧ mask.getLsbD i = true := by
  have hzero : sr &&& mask = 0#W ↔ ∀ i < W, (sr &&& mask).getLsbD i = false := by
    simp [BitVec.eq_of_getLsbD_eq_iff]
  rw [anySet, bne_iff_ne, ne_eq, hzero]
  simp

section
variable (hp : p.WellFormed) (sr : Word p.W)
include hp

/-- The mask of a named position tests the bit there: well-formedness puts it inside the word. -/
theorem anySet_bit_position {i : Nat} (hi : i ∈ p.positions) : anySet sr (bit p.W i) = sr.getLsbD i := by
  obtain ⟨_, _, _, hlt, _⟩ := hp
  exact anySet_bit sr (hlt i hi)

theorem anySet_mVpp : anySet sr (mVpp p) = sr.getLsbD p.posVppError :=
  anySet_bit_position hp sr (by simp [Params.positions])

theorem anySet_mProg : anySet sr (mProg p) = sr.getLsbD p.posProgramError :=
  anySet_bit_position hp sr (by simp [Params.positions])

theorem anySet_mBp : anySet sr (mBp p) = sr.getLsbD p.posBlockProtectionError :=
  anySet_bit_position hp sr (by simp [Params.positions])

end

theorem mOther_getLsbD {i : Nat} (hi : i < p.W) : (mOther p).getLsbD i = decide (i ∈ p.otherPositions) := by
  simp [mOther, getLsbD_bit _ hi, Params.otherPositions, Bool.or_assoc]

theorem anySet_mOther_iff (sr : Word p.W) :
    anySet sr (mOther p) = true ↔ ∃ i ∈ p.otherPositions, sr.getLsbD i = true := by
  rw [anySet_iff]
  constructor
  · rintro ⟨i, hi, hsr, hother⟩
    exact ⟨i, by simpa [mOther_getLsbD hi] using hother, hsr⟩
  · rintro ⟨i, hother, hsr⟩
    have hi : i < p.W := BitVec.lt_of_getLsbD hsr
    exact ⟨i, hi, hsr, by simpa [mOther_getLsbD hi] using hother⟩

/-- M_UNNAMED is the complement of the eight positions. -/
theorem anySet_mUnnamed_iff (sr : Word p.W) :
    anySet sr (mUnnamed p) = true ↔ ∃ i, i < p.W ∧ i ∉ p.positions ∧ sr.getLsbD i = true := by
  rw [anySet_iff]
  refine exists_congr fun i => and_congr_right fun hi => ?_
  rw [mUnnamed_getLsbD hi, mNamed_getLsbD hi]
  simp [and_comm]

/-- R161: without the parameter, Classify looks at the four masks of named bits only. -/
theorem classify_congr {a b : Word p.W} (hunnamed : p.unnamedBitsAreErrors = false)
    (hvpp : anySet a (mVpp p) = anySet b (mVpp p)) (hprog : anySet a (mProg p) = anySet b (mProg p))
    (hbp : anySet a (mBp p) = anySet b (mBp p)) (hother : anySet a (mOther p) = anySet b (mOther p)) :
    classify p a = classify p b := by
  simp only [classify, hvpp, hprog, hbp, hother, hunnamed, Bool.false_and]

/-! ### CMD_RESET and READBACK -/

theorem exec_cmdReset_of_completes (hb : m.pins.bus_rdata.isSome) :
    exec .cmdReset ⟨p, m⟩ = .next ⟨p, (m.emit (.busWrite (cmdRegAddr p) (resetCmd p))).goto .DONE⟩ := by
  rw [exec, execCmdReset, busWrite_some hb, lift_next]

theorem exec_readback_of_answer {rb : Word p.W} (hb : m.pins.bus_rdata = some rb) :
    exec .readback ⟨p, m⟩ = .next ⟨p, readbackBranch rb (m.emit (.busRead m.ADDR rb))⟩ := by
  rw [exec, execReadback, busRead_some hb, lift_next]

theorem readbackBranch_of_equal {rb : Word p.W} (h : rb = m.DATA) : readbackBranch rb m = m.select .Success .DONE := by
  rw [readbackBranch, if_pos h]

theorem readbackBranch_of_differs {rb : Word p.W} (h : rb ≠ m.DATA) :
    readbackBranch rb m = m.select .ReadBackError .DONE := by
  rw [readbackBranch, if_neg h]

theorem Fwc.At.transacts_cmdReset (hp : p.WellFormed) (hm : m.At .RST q t0 (x :: rest)) (hx : x.BusCompletes) :
    m.Transacts [.busWrite (cmdRegAddr p) (resetCmd p)] fun n => n.At .DONE q t0 rest ∧ n.RESULT = m.RESULT := by
  have hb : m.sample.pins.bus_rdata.isSome := Fwc.sample_pins_cons hm.env ▸ hx.2
  exact .of_exec .cmdReset hp hm.state hm.env hx.1 (exec_cmdReset_of_completes hb) rfl
    ⟨hm.step rfl rfl rfl rfl, rfl⟩

/-! ### The last transaction before a result (R147, R167, R172) -/

/-- `e` is a transaction after which an operation on `q` has the result: the Reset command for what the device reports,
the read-back of the request's address, or the time read that finds the bound reached. -/
def EndsWith (q : Req p.A p.W) (e : Event p.A p.W) : OpResult → Prop
  | .VppError | .ProgramError | .ProtectedBlockError | .UnknownProgramError =>
      e = .busWrite (cmdRegAddr p) (resetCmd p)
  | .Success | .ReadBackError => ∃ rb, e = .busRead q.address rb
  | .TimeoutError => ∃ t, e = .time t

/-- Classify selects device errors only. -/
theorem endsWith_of_classify {sr : Word p.W} (h : classify p sr = some r) :
    EndsWith q (.busWrite (cmdRegAddr p) (resetCmd p)) r := by
  unfold classify at h
  split_ifs at h <;> cases h <;> rfl

theorem OperationShape.endsWith (h : OperationShape p q r es) : ∃ e, es.getLast? = some e ∧ EndsWith q e r := by
  obtain ⟨t0, xs, sr, _, ⟨_, rfl, t, _, rfl⟩ | ⟨_, hc, rfl⟩ | ⟨_, _, rfl, rfl⟩ | ⟨_, _, rfl, rb, _, rfl⟩⟩ := h
  · exact ⟨.time t, by simp, t, rfl⟩
  · exact ⟨.busWrite (cmdRegAddr p) (resetCmd p), by simp, endsWith_of_classify hc⟩
  · exact ⟨.busRead q.address q.value, by simp, q.value, rfl⟩
  · exact ⟨.busRead q.address rb, by simp, rb, rfl⟩

/-- In DONE the invariant's result is the one in `RESULT`, since results have different codes. -/
theorem Fwc.Inv.shape (hm : m.Inv) (hs : m.STATE = FsmState.DONE.code) (hres : m.RESULT = r.code) :
    OperationShape p m.held r m.operation := by
  obtain ⟨r', hres', hshape⟩ := hm.done hs
  obtain rfl : r' = r := resultCode_inj.mp (hres'.symm.trans hres)
  exact hshape

end Sys2Proof.Machine

namespace Sys2Proof.Proofs

open Sys2Proof.Machine

/-- Settles O8: the address and the code are the parameters', cut to the two widths. -/
theorem cmdResetWritesTheResetCommand : Obligations.CmdResetWritesTheResetCommand :=
  fun _ _ => exec_cmdReset_of_completes

/-- Settles O9: words that differ in a bit are different words, and the comparison is of whole words. -/
theorem readbackComparesTheWord : Obligations.ReadbackComparesTheWord := by
  intro p m rb hb
  rw [exec_readback_of_answer hb]
  refine ⟨fun heq => ?_, fun ⟨i, _, hbit⟩ => ?_⟩
  · rw [readbackBranch_of_equal (m := m.emit _) heq]
    rfl
  · have hne : rb ≠ m.DATA := fun heq => hbit (heq ▸ rfl)
    rw [readbackBranch_of_differs (m := m.emit _) hne]
    rfl

/-- Settles O31: the result says with which transaction a run of R103 ends, and the three kinds are different. -/
theorem lastTransactionTellsTheKindOfResult : Obligations.LastTransactionTellsTheKindOfResult := by
  intro p m r hm hs hres
  obtain ⟨e, hlast, he⟩ := (hm.shape hs hres).endsWith
  rw [hlast]
  cases r with
  | VppError | ProgramError | ProtectedBlockError | UnknownProgramError =>
    obtain rfl : e = .busWrite (cmdRegAddr p) (resetCmd p) := he
    simp [Event.busWrite]
  | Success | ReadBackError =>
    obtain ⟨rb, rfl⟩ : ∃ rb, e = .busRead m.ADDR rb := he
    simp [Event.busRead]
  | TimeoutError =>
    obtain ⟨t, rfl⟩ : ∃ t, e = .time t := he
    simp

/-- Settles O36: the opening and the waiting rounds, then the Ready read that selects the error, the Reset command, and
the response. -/
theorem operationEndingInDeviceErrorRuns : Obligations.OperationEndingInDeviceErrorRuns := by
  intro p m q t0 ps xs accept start program data x y z sr r rest hp hs henv hopen hps hx hr hc hy hz hready
  have henv' : m.env = [accept, start, program, data] ++ (pollInputs ps ++ x :: y :: z :: rest) := by simpa using henv
  have hpoll := transacts_to_poll hp hs henv' hopen hps
  obtain ⟨n, hrun, htrace, hn⟩ := hpoll.append fun _ hn =>
    (hn.transacts_statusRead hp hx).append fun _ ⟨_, _, _, herror⟩ =>
      have ⟨hrst, hres⟩ := herror r hr hc
      (hrst.transacts_cmdReset hp hy).append fun _ ⟨hdone, hkept⟩ =>
        hdone.transacts_respond hp (hkept.trans hres) hz hready
  refine ⟨n, ?_, hn.state, hn.env, htrace⟩
  rw [← hrun]
  congr 1
  simp only [List.length_append, opening_length, pollLines_length, List.length_cons, List.length_nil]
  omega

/-- Settles O40: the rows are Classify's branches, first match first, with the masks read as bits. -/
theorem decodeTableOfAReadyWord : Obligations.DecodeTableOfAReadyWord := by
  intro p sr V P B O U hp hV hP hB hO hU
  have hother : anySet sr (mOther p) = true ↔ O := (anySet_mOther_iff sr).trans hO.symm
  have hunnamed : anySet sr (mUnnamed p) = true ↔ U := (anySet_mUnnamed_iff sr).trans hU.symm
  rw [← anySet_mVpp hp] at hV
  rw [← anySet_mProg hp] at hP
  rw [← anySet_mBp hp] at hB
  subst hV hP hB
  rw [← hother, ← hunnamed]
  refine ⟨fun hv => ?_, fun hv hpr => ?_, fun hv hpr hb => ?_, fun hv hpr hb ho => ?_, fun hv hpr hb ho hu => ?_,
    fun hv hpr hb ho _ hstrict => ?_, fun hv hpr hb ho hu hstrict => ?_⟩
  · simp [classify, hv]
  · simp [classify, hv, hpr]
  · simp [classify, hv, hpr, hb]
  · simp [classify, hv, hpr, hb, ho]
  · simp [classify, hv, hpr, hb, ho, hu]
  · simp [classify, hv, hpr, hb, ho, hstrict]
  · simp [classify, hv, hpr, hb, ho, hu, hstrict]

/-- Settles O41: the Ready test and the four masks that Classify looks at read named positions only. -/
theorem unnamedBitsDoNotSelectAnError : Obligations.UnnamedBitsDoNotSelectAnError := by
  intro p a b hp hunnamed hagree
  have hbit {i : Nat} (hi : i ∈ p.positions) : anySet a (bit p.W i) = anySet b (bit p.W i) := by
    rw [anySet_bit_position hp a hi, anySet_bit_position hp b hi, hagree i hi]
  have hother : anySet a (mOther p) = anySet b (mOther p) := by
    rw [Bool.eq_iff_iff, anySet_mOther_iff, anySet_mOther_iff]
    exact exists_congr fun i => and_congr_right fun hi => by rw [hagree i (p.otherPositions_subset hi)]
  exact ⟨hbit (by simp [Params.positions]), classify_congr hunnamed (hbit (by simp [Params.positions]))
    (hbit (by simp [Params.positions])) (hbit (by simp [Params.positions])) hother⟩

end Sys2Proof.Proofs
end

section
/-! PROOF. 60_exceptions.md: the FWC raises no exception (R200), and time is read in two states only (R210). -/

namespace Sys2Proof.Machine

variable {p : Params} {m n : Fwc p}

/-- What a step adds to the trace, if anything, its state issues. -/
theorem step_mayIssue {e : Event p.A p.W} (h : step ⟨p, m⟩ = .next ⟨p, n⟩) (ht : n.trace = e :: m.trace) :
    m.MayIssue e := by
  rcases step_trace_cases h with hkeep | ⟨e', htrace, hissue⟩
  · exact absurd (ht.symm.trans hkeep) (List.cons_ne_self _ _)
  · obtain ⟨rfl, _⟩ := List.cons.inj (ht.symm.trans htrace)
    exact hissue

/-- Every operation goes on once the bus and the time port answer; RESPOND alone also needs the code of a result. -/
theorem exec_goes_on (i : Instr) (hb : m.pins.bus_rdata.isSome) (htime : m.pins.time_now.isSome)
    (hres : m.STATE = FsmState.DONE.code → m.RESULT ≠ reservedResult) : ∃ n : Fwc p, exec i ⟨p, m⟩ = .next ⟨p, n⟩ := by
  obtain ⟨v, hv⟩ := Option.isSome_iff_exists.mp hb
  obtain ⟨t, ht⟩ := Option.isSome_iff_exists.mp htime
  cases i with
  | accept =>
    by_cases hreq : m.STATE = FsmState.IDLE.code ∧ m.pins.req_valid = true
    · exact ⟨_, exec_accept_of_request hreq.1 hreq.2⟩
    · exact ⟨_, exec_accept_waits hreq⟩
  | timeStart => exact ⟨_, exec_timeStart_of_answer ht⟩
  | cmdProgram => exact ⟨_, exec_cmdProgram_of_completes hb⟩
  | dataWrite => exact ⟨_, exec_dataWrite_of_completes hb⟩
  | statusRead => exact ⟨_, exec_statusRead_of_answer hv⟩
  | timeCheck => exact ⟨_, exec_timeCheck_of_answer ht⟩
  | cmdReset => exact ⟨_, exec_cmdReset_of_completes hb⟩
  | readback => exact ⟨_, exec_readback_of_answer hv⟩
  | respond =>
    by_cases hrsp : m.STATE = FsmState.DONE.code ∧ m.pins.rsp_ready = true
    · exact ⟨_, exec_respond_delivers hrsp.1 hrsp.2 (hres hrsp.1)⟩
    · exact ⟨_, exec_respond_waits hrsp⟩

theorem performedIn_surjective : Function.Surjective Instr.performedIn
  | .IDLE => ⟨.accept, rfl⟩
  | .TSTART => ⟨.timeStart, rfl⟩
  | .CMD => ⟨.cmdProgram, rfl⟩
  | .DATA => ⟨.dataWrite, rfl⟩
  | .POLL => ⟨.statusRead, rfl⟩
  | .TCHK => ⟨.timeCheck, rfl⟩
  | .RST => ⟨.cmdReset, rfl⟩
  | .RB => ⟨.readback, rfl⟩
  | .DONE => ⟨.respond, rfl⟩

/-- The invariant shuts out the unused state codes. -/
theorem Fwc.Inv.decodes (hm : m.Inv) : ∃ i : Instr, decode m.STATE = .ok i := by
  obtain ⟨f, hf⟩ := stateCode_of_le hm.legal
  obtain ⟨i, rfl⟩ := performedIn_surjective f
  exact ⟨i, decode_eq_ok.mpr hf⟩

/-- The invariant shuts out the reserved code where `RESULT` is the response. -/
theorem Fwc.Inv.RESULT_ne_reserved (hm : m.Inv) (hs : m.STATE = FsmState.DONE.code) : m.RESULT ≠ reservedResult := by
  obtain ⟨r, hres, _⟩ := hm.done hs
  exact hres ▸ resultCode_ne_reserved r

end Sys2Proof.Machine

namespace Sys2Proof.Proofs

open Sys2Proof.Machine

/-- Settles O24: what a step adds is listed for its state, kind by kind. -/
theorem timeRequestsAndResponsesHaveTheirStates : Obligations.TimeRequestsAndResponsesHaveTheirStates := by
  intro p m n e h ht
  have hissue : m.MayIssue e := step_mayIssue h ht
  refine ⟨?_, ?_, ?_⟩
  · rintro t rfl
    exact hissue
  · rintro q rfl
    exact hissue
  · rintro r rfl
    exact hissue

/-- Settles O27: of the four stops the invariant shuts out the unused state code and the reserved result, and the answers
the two transactions that never complete. -/
theorem stepGoesOnWhenTransactionsComplete : Obligations.StepGoesOnWhenTransactionsComplete := by
  intro p m hp hm hb ht
  cases hr : m.nextInputs.rst with
  | true => exact ⟨_, step_of_rst hp hr⟩
  | false =>
    obtain ⟨i, hi⟩ := hm.decodes
    rw [step_of_decode hp hr hi]
    exact exec_goes_on i hb ht hm.RESULT_ne_reserved

end Sys2Proof.Proofs
end

section
/-! PROOF. 70_reset_and_hazards.md: the reset input (R230), the state it leaves (R231), and the step count of an operation
that ends in a read-back (R246). -/

namespace Sys2Proof.Machine

variable {p : Params} {m n : Fwc p} {q : Req p.A p.W} {t0 : Time} {x : Inputs p} {rest : List (Inputs p)}

theorem step_next_of_rst (hr : m.nextInputs.rst = true) (h : step ⟨p, m⟩ = .next ⟨p, n⟩) :
    n = m.sample.resetStep := by
  obtain ⟨hp, _⟩ := step_cases h
  cases (step_of_rst hp hr).symm.trans h
  rfl

/-- The three handshake outputs of an FWC that can take a request. -/
theorem Fwc.ready_outputs (hs : m.STATE = FsmState.IDLE.code) :
    m.req_ready = true ∧ m.rsp_valid = false ∧ m.busy = false := by
  have hready : m.req_ready = true := m.req_ready_iff.mpr hs
  exact ⟨hready, Fwc.rsp_valid_of_req_ready hready, by simp [Fwc.busy_eq, hready]⟩

/-- R170 with the inputs scheduled for it: the comparison is with the request's own value. -/
theorem Fwc.At.transacts_readback {rb : Word p.W} (hp : p.WellFormed) (hm : m.At .RB q t0 (x :: rest))
    (hx : x.BusAnswers rb) :
    m.Transacts [.busRead q.address rb] fun n => n.At .DONE q t0 rest ∧
      n.RESULT = (if rb = q.value then OpResult.Success else .ReadBackError).code := by
  have hb : m.sample.pins.bus_rdata = some rb := Fwc.sample_pins_cons hm.env ▸ hx.2
  obtain rfl := hm.held
  exact .of_exec .readback hp hm.state hm.env hx.1 (exec_readback_of_answer hb) rfl ⟨hm.step rfl rfl rfl rfl, rfl⟩

end Sys2Proof.Machine

namespace Sys2Proof.Proofs

open Sys2Proof.Machine

/-- Settles O35: the opening and the waiting rounds, then the Ready read that shows no error, the read-back, and the
response. -/
theorem operationEndingInReadbackRuns : Obligations.OperationEndingInReadbackRuns := by
  intro p m q t0 ps xs accept start program data x y z sr rb rest hp hs henv hopen hps hx hr hc hy hz hready
  have henv' : m.env = [accept, start, program, data] ++ (pollInputs ps ++ x :: y :: z :: rest) := by simpa using henv
  have hpoll := transacts_to_poll hp hs henv' hopen hps
  obtain ⟨n, hrun, htrace, hn⟩ := hpoll.append fun _ hn =>
    (hn.transacts_statusRead hp hx).append fun _ ⟨_, _, hclean, _⟩ =>
      ((hclean hr hc).transacts_readback hp hy).append fun _ ⟨hdone, hres⟩ =>
        hdone.transacts_respond hp hres hz hready
  refine ⟨n, ?_, hn.state, hn.env, by rwa [apply_ite OpResult.code] at htrace⟩
  rw [← hrun]
  congr 1
  simp only [List.length_append, opening_length, pollLines_length, List.length_cons, List.length_nil]
  omega

/-- Settles O16: a step looks at the reset input before it looks at `STATE`. -/
theorem resetTakesPrecedenceOverEveryState : Obligations.ResetTakesPrecedenceOverEveryState :=
  fun _ _ hp hr => ⟨_, step_of_rst hp hr, rfl, rfl, rfl, rfl⟩

/-- Settles O17: IDLE alone decides the three outputs, at the start and after a reset step. -/
theorem resetLeavesTheFwcReady : Obligations.ResetLeavesTheFwcReady := by
  refine ⟨⟨rfl, Fwc.ready_outputs rfl⟩, fun p m n hr h => ?_⟩
  have hs : n.STATE = FsmState.IDLE.code := by rw [step_next_of_rst hr h, Fwc.resetStep_STATE]
  exact ⟨hs, Fwc.ready_outputs hs⟩

end Sys2Proof.Proofs
end

section
/-! PROOF. 93_implementation_defined.md: the stops that the model gives to what the source leaves open, a response with the
reserved code (U6) and a transaction that never completes (U11). -/

namespace Sys2Proof.Machine

variable {p : Params} {m : Fwc p} {a : Address p.A}

@[simp] theorem lift_fault (f : Fault) : lift (.fault f : Out (Fwc p)) = .fault f := rfl

/-! ### An operation that begins with a transaction that never completes performs none of its rest -/

theorem lift_busRead_none {k : Word p.W → Fwc p → Out (Fwc p)} (h : m.pins.bus_rdata = none) :
    lift (m.busRead a k) = .fault .busNeverCompletes := by
  rw [busRead_none h, lift_fault]

theorem lift_busWrite_none {v : Word p.W} {k : Fwc p → Out (Fwc p)} (h : m.pins.bus_rdata = none) :
    lift (m.busWrite a v k) = .fault .busNeverCompletes := by
  rw [busWrite_none h, lift_fault]

theorem lift_timeRead_none {k : Time → Fwc p → Out (Fwc p)} (h : m.pins.time_now = none) :
    lift (m.timeRead k) = .fault .timeNeverCompletes := by
  rw [timeRead_none h, lift_fault]

end Sys2Proof.Machine

namespace Sys2Proof.Proofs

open Sys2Proof.Machine

/-- Settles O13: 7 is the reserved code. -/
theorem respondWithReservedCodeFaults : Obligations.RespondWithReservedCodeFaults :=
  fun _ _ => exec_respond_of_reserved

/-- Settles O14: each of the seven operations is one transaction and what follows from its answer. -/
theorem transactionThatNeverCompletesHangs : Obligations.TransactionThatNeverCompletesHangs := by
  intro p m
  refine ⟨fun i hi hb => ?_, fun i hi ht => ?_⟩
  · cases i with
    | cmdProgram | dataWrite | cmdReset => exact lift_busWrite_none hb
    | statusRead | readback => exact lift_busRead_none hb
    | accept | timeStart | timeCheck | respond => simp at hi
  · cases i with
    | timeStart | timeCheck => exact lift_timeRead_none ht
    | accept | cmdProgram | dataWrite | statusRead | cmdReset | readback | respond => simp at hi

end Sys2Proof.Proofs
end
